-- ==== Sys2Proof/Word.lean ====
section
/-! DEFINITION. The word types: registers and addresses (64 bits, R20, R34), bytes, instruction words (32 bits, R73). -/

namespace Sys2Proof

/-- The value of a 64-bit register (R20, R34, R35). -/
abbrev Word := BitVec 64

/-- One byte of memory. -/
abbrev Byte := BitVec 8

/-- One instruction word (R73, R78). -/
abbrev InstrWord := BitVec 32

end Sys2Proof
end

