-- ==== Sys2Proof/Config.lean ====
section
/-! DEFINITION. What is fixed for one implementation (R8), the environment's inputs (R10), and the values the spec
leaves free. The plain parameters are the structure `Config`, which State carries so that every claim quantifies over
it (log 1); parameters that are functions, and draws, are opaque constants. -/

namespace Sys2Proof

/-- The Exception levels, EL0 the least privileged (R130). -/
inductive EL where
  | el0
  | el1
  | el2
  | el3
  deriving DecidableEq, Repr

/-- The two register names the access forms use (R71, R72). -/
inductive RegName where
  | sctlr2El2
  | sctlr2El1
  deriving DecidableEq, Repr

/-- The six one-bit control fields (R21 to R27). -/
inductive ControlField where
  | enIdcp128
  | ease
  | enAnerr
  | enAderr
  | nmea
  | emec
  deriving DecidableEq, Repr

/-- A name in the System register encoding space (R70). -/
structure SysReg where
  op0 : BitVec 2
  op1 : BitVec 3
  crn : BitVec 4
  crm : BitVec 4
  op2 : BitVec 3
  deriving DecidableEq, Repr

/-- The order of the eight bytes of the NVMem slot, `NVMEM_BYTE_ORDER` (R53, D8). -/
inductive ByteOrder where
  | little
  | big
  deriving DecidableEq, Repr

/-- The memory type of a read on which an External abort is reported (R67). -/
inductive MemType where
  | normal
  | device
  deriving DecidableEq, Repr

/-- The translation regime of a memory access, an attribute the environment supplies (R57). -/
inductive Regime where
  | el2
  | el20
  | other
  deriving DecidableEq, Repr

/-- `ReadKind`: the type is open, so a kind is only a label (R67, D7, log 25). -/
abbrev ReadKind := Nat

/-- A memory read on which an External abort is reported (R67).
`id` tells reads apart, since `SYNC_ABORT_IMPOSSIBLE` is a relation on reads (R120, log 25). -/
structure AbortedRead where
  memType : MemType
  regime : Regime
  kind : ReadKind
  id : Nat
  deriving DecidableEq, Repr

/-- The implementation parameters of R8 that are plain data. -/
structure Config where
  /-- The register is present (R2). -/
  featSctlr2 : Bool
  /-- FEAT_VHE: gates EL0 applicability and the alias ordering statement (R3, R62). -/
  featVhe : Bool
  /-- `IsFeatureImplemented(FEAT_FGT)` (R10). -/
  featFgt : Bool
  /-- `HaveEL(EL3)` (R10). -/
  haveEl3 : Bool
  /-- EL2 is implemented (D23). -/
  haveEl2 : Bool
  /-- `IMPL_EnIDCP128` (R31), and so on for the other five fields. -/
  implEnIdcp128 : Bool
  implEase : Bool
  implEnAnerr : Bool
  implEnAderr : Bool
  implNmea : Bool
  implEmec : Bool
  /-- `LOW_RES0_WIDTH`: the width of the lowest RES0 field; the spec takes 1 (R21, D1). -/
  lowRes0Width : Nat
  /-- `RES0_STORAGE_MASK`: which RES0 bits keep a written value (R28, D4). -/
  res0StorageMask : Word
  /-- `EL3_TRAP_PRIORITY_WHEN_SDD` (R85, U5). -/
  el3TrapPriorityWhenSdd : Bool
  /-- `NVMEM_BASE` (R51). The width of an address is not in the spec (R40): 64 bits here, the model's choice (log 36). -/
  nvmemBase : Word
  /-- `NVMEM_BYTE_ORDER` (R53). -/
  nvmemByteOrder : ByteOrder
  /-- `IMPDEF_128_SYSREGS`: the IMPLEMENTATION DEFINED 128-bit System registers (R39, U6). -/
  impdef128Sysregs : List SysReg
  /-- `ASYNC_ERR_APPLIES_N`, where the implementation states it: whether EnANERR applies to a kind of Normal read; every
  other kind is open (R67, D7, log 25). -/
  asyncErrAppliesN : List (ReadKind × Bool)
  /-- `ASYNC_ERR_APPLIES_D` in the same way, for EnADERR and Device reads (R67, D7, log 25). -/
  asyncErrAppliesD : List (ReadKind × Bool)
  /-- `SYNC_ABORT_IMPOSSIBLE` in the same way: whether the error of a read cannot be taken synchronously (R120, D19,
  log 25). -/
  syncAbortImpossible : List (AbortedRead × Bool)
  deriving DecidableEq, Repr

/-- The inputs of R10 that the environment supplies and no rule of the spec computes; one-bit fields are Bools. -/
structure Ctx where
  /-- `PSTATE.EL` (R36). -/
  el : EL
  /-- `PSTATE.A` (R36). -/
  pstateA : Bool
  /-- Whether EL2 is enabled in the current Security state (R4, R131); `State.el2Enabled` adds "is implemented". -/
  el2Enabled : Bool
  /-- `Halted()`. -/
  halted : Bool
  /-- `EDSCR.SDD`. -/
  edscrSdd : Bool
  /-- `IsHCRXEL2Enabled()`. -/
  hcrxEnabled : Bool
  /-- `HCRX_EL2.SCTLR2En`. -/
  hcrxSctlr2En : Bool
  /-- `HCR_EL2.E2H`, and so on for the other fields of HCR_EL2 (R38). -/
  hcrE2h : Bool
  hcrTge : Bool
  hcrNv : Bool
  hcrNv1 : Bool
  hcrNv2 : Bool
  hcrTvm : Bool
  hcrTrvm : Bool
  /-- `SCR_EL3.SCTLR2En`. -/
  scrSctlr2En : Bool
  /-- `SCR_EL3.FGTEn`. -/
  scrFgtEn : Bool
  /-- `HFGRTR_EL2.SCTLR_EL1` (the name without "2" is S1's, C6). -/
  hfgrtrSctlrEl1 : Bool
  /-- `HFGWTR_EL2.SCTLR_EL1`. -/
  hfgwtrSctlrEl1 : Bool
  /-- `VBAR_EL2`. -/
  vbarEl2 : Word
  /-- `ESR_EL2.EC`: written only by exception entry, which the spec does not describe (R38, log 33).
  Its width of 6 bits, and that of the class a SysTrap carries, is not in the spec: PRESUMED (log 33). -/
  esrEl2Ec : BitVec 6
  /-- Whether the environment admits an access to the NVMem slot (R51, D8). -/
  nvmemAdmitted : Bool
  deriving DecidableEq, Repr

/-- All the inputs of R10: `Ctx` with the three that State holds as registers and memory.
It is the context that the open conditions of R30 are predicates of (D6, log 13). -/
structure Inputs where
  ctx : Ctx
  /-- `X[t, 64]`, X0 to X30. -/
  x : Vector Word 31
  /-- `SCTLR2_EL1`. -/
  sctlr2El1 : Word
  /-- `NVMem[0x278]`: its eight bytes, none where nothing was written. -/
  slot : List (Option Byte)
  deriving DecidableEq, Repr

/-- What selects "the appropriate" vector offset: where the exception was taken from (R115, R116). -/
inductive VectorSource where
  | sameElSp0
  | sameElSpx
  | lowerAArch64
  | lowerAArch32
  deriving DecidableEq, Repr

/-- The stack pointer in use, which selects between the two offsets for the same Exception level (R116); the environment
supplies it, since it is no input of R10 (log 22). -/
inductive StackPointer where
  | sp0
  | spx
  deriving DecidableEq, Repr

namespace Config

/-- `FORCE_ONE_EnANERR`: the lost "treated as one when all of the following are true" condition (R30, D6). -/
opaque forceOneEnAnerr : Config → Inputs → Bool

/-- `FORCE_ONE_EnADERR` (R30, D6). -/
opaque forceOneEnAderr : Config → Inputs → Bool

/-- `ASYNC_ERR_APPLIES_N` for the kinds the implementation states nothing of (R67, D7, log 25). -/
opaque openAsyncErrN : ReadKind → Bool

/-- `ASYNC_ERR_APPLIES_D` for the kinds the implementation states nothing of (R67, D7, log 25). -/
opaque openAsyncErrD : ReadKind → Bool

/-- `SYNC_ABORT_IMPOSSIBLE` for the reads the implementation states nothing of (R120, D19, log 25). -/
opaque openSyncAbortImpossible : AbortedRead → Bool

/-- `WriteFilterEL1`: what a write of SCTLR2_EL1 stores; the identity is not to be assumed (R37). -/
opaque writeFilterEl1 : Word → Word

/-- `RESET_VALUE`, a draw at each reset: the source gives no value for any bit and names no kind of reset
(R44, R45, R141, D3). -/
opaque resetValue : Nat → Word

/-- `SCR_EL3.SCTLR2En` after power-on: R142 forbids assuming either value. -/
opaque resetSctlr2En : Bool

/-- What a read of a byte of the NVMem slot that nothing has written gives: a draw (R55, log 15). -/
opaque freeWord : Nat → Word

/-- A choice among alternatives the spec leaves to the implementation: a draw (R11, D26). -/
opaque freeChoice : Nat → Nat

end Config

end Sys2Proof
end

