-- ==== Sys2Proof/Syntax.lean ====
section
/-! DEFINITION. The instructions: one constructor for each row of spec/opcode_table.json (R74, R79). -/

namespace Sys2Proof

/-- The four System register access forms.
`t` is the number of the general register, the 5-bit `Rt` field (R75); `WellFormed.lean` checks its range. -/
inductive Instr where
  /-- `MRS <Xt>, SCTLR2_EL2` (R87). -/
  | mrsSctlr2El2 (t : Nat)
  /-- `MSR SCTLR2_EL2, <Xt>` (R88). -/
  | msrSctlr2El2 (t : Nat)
  /-- `MRS <Xt>, SCTLR2_EL1` (R89). -/
  | mrsSctlr2El1 (t : Nat)
  /-- `MSR SCTLR2_EL1, <Xt>` (R90). -/
  | msrSctlr2El1 (t : Nat)
  deriving DecidableEq, Repr

end Sys2Proof
end

