-- ==== Sys2Proof/WellFormed.lean ====
section
/-! DEFINITION. Which instruction terms have an encoding: the register number fits the 5-bit `Rt` field (R75). -/

namespace Sys2Proof

/-- The general register number an instruction names: its only operand (R75). -/
def Instr.reg : Instr → Nat
  | .mrsSctlr2El2 t => t
  | .msrSctlr2El2 t => t
  | .mrsSctlr2El1 t => t
  | .msrSctlr2El1 t => t

/-- R75: "`t = w[4:0]`, an unsigned 5-bit value 0 to 31". -/
abbrev Instr.WellFormed (i : Instr) : Prop := i.reg < 32

end Sys2Proof
end

