-- ==== Sys2Proof/Decode.lean ====
section
/-! DEFINITION. The decoder, from the match and mask columns of R74, and the encoder, from the five-field tuples
(R71, R72) and the word layout (R73). The word layout and the byte order of words are the spec's general knowledge
(K10, K13; log 5). -/

namespace Sys2Proof

/-- One row of the table of R74: a word `w` selects it when `w & mask == match`. -/
structure OpRow where
  pattern : InstrWord
  mask : InstrWord
  build : Nat → Instr

/-- The table of R74. -/
def opRows : List OpRow :=
  [ ⟨0xD53C1060#32, 0xFFFFFFE0#32, .mrsSctlr2El2⟩,
    ⟨0xD51C1060#32, 0xFFFFFFE0#32, .msrSctlr2El2⟩,
    ⟨0xD5381060#32, 0xFFFFFFE0#32, .mrsSctlr2El1⟩,
    ⟨0xD5181060#32, 0xFFFFFFE0#32, .msrSctlr2El1⟩ ]

/-- `w & mask == match` (R74). -/
def OpRow.selects (r : OpRow) (w : InstrWord) : Bool := w &&& r.mask == r.pattern

/-- `t = w[4:0]` (R74, R75). -/
def rtOf (w : InstrWord) : Nat := (w.extractLsb' 0 5).toNat

/-- The instruction of a word, or none where no row of R74 matches it (R77). -/
def decodeWord (w : InstrWord) : Option Instr :=
  (opRows.find? (·.selects w)).map (fun r => r.build (rtOf w))

/-- Why bytes are no instruction of the model. -/
inductive DecodeError where
  /-- Fewer than the four bytes of a word (R78). -/
  | truncated
  /-- R77: "returns `NotInScope` for a word that matches no row of rule R74". -/
  | notInScope (w : InstrWord)
  deriving DecidableEq, Repr

/-- The word of four bytes, the one at the lowest address least significant (R53). -/
def wordOfBytes (b0 b1 b2 b3 : Byte) : InstrWord := b3 ++ b2 ++ b1 ++ b0

/-- Decodes the first instruction of a byte sequence and returns the rest. -/
def decode : List Byte → Except DecodeError (Instr × List Byte)
  | b0 :: b1 :: b2 :: b3 :: rest =>
    match decodeWord (wordOfBytes b0 b1 b2 b3) with
    | some i => .ok (i, rest)
    | none => .error (.notInScope (wordOfBytes b0 b1 b2 b3))
  | _ => .error .truncated

/-- The tuple of each register name (R71, R72). -/
def RegName.tuple : RegName → SysReg
  | .sctlr2El2 => ⟨0b11#2, 0b100#3, 0b0001#4, 0b0000#4, 0b011#3⟩
  | .sctlr2El1 => ⟨0b11#2, 0b000#3, 0b0001#4, 0b0000#4, 0b011#3⟩

/-- The System register move word of R73: `L` is 1 for a read, `o0` is the low bit of op0 (op0 = 0b10 + o0). -/
def sysregWord (l : BitVec 1) (r : SysReg) (rt : BitVec 5) : InstrWord :=
  0b1101010100#10 ++ l ++ 0b1#1 ++ r.op0.extractLsb' 0 1 ++ r.op1 ++ r.crn ++ r.crm ++ r.op2 ++ rt

/-- The word of an instruction (R73 with the tuples of R71 and R72). -/
def encode : Instr → InstrWord
  | .mrsSctlr2El2 t => sysregWord 1#1 RegName.sctlr2El2.tuple (BitVec.ofNat 5 t)
  | .msrSctlr2El2 t => sysregWord 0#1 RegName.sctlr2El2.tuple (BitVec.ofNat 5 t)
  | .mrsSctlr2El1 t => sysregWord 1#1 RegName.sctlr2El1.tuple (BitVec.ofNat 5 t)
  | .msrSctlr2El1 t => sysregWord 0#1 RegName.sctlr2El1.tuple (BitVec.ofNat 5 t)

/-- The four bytes of a word in memory order (R53). -/
def wordBytes (w : InstrWord) : List Byte :=
  [w.extractLsb' 0 8, w.extractLsb' 8 8, w.extractLsb' 16 8, w.extractLsb' 24 8]

/-- The bytes of an instruction in memory order. -/
def encodeBytes (i : Instr) : List Byte := wordBytes (encode i)

/-- The instruction word whose table bits are `w`: the `nbits` low bits, every higher bit 0. -/
def tableWord (nbits w : Nat) : InstrWord := BitVec.ofNat 32 (w % 2 ^ nbits)

/-- The instruction the decoder reads from a row's word (the host's interface). -/
def decodeTableWord (nbits w : Nat) : Option Instr :=
  match decode (wordBytes (tableWord nbits w)) with
  | .ok (i, _) => some i
  | .error _ => none

end Sys2Proof
end

