-- ==== Sys2Proof/Machine/Fields.lean ====
section
/-! DEFINITION. The layout of SCTLR2_EL2 and its write filter (R21, R28, R29, R31), and the order of the Exception
levels (R130). Everything here is a function of the configuration and of plain values. -/

namespace Sys2Proof.Machine

/-- The Exception levels as numbers, EL0 least privileged (R130). -/
def elRank : EL → Nat
  | .el0 => 0
  | .el1 => 1
  | .el2 => 2
  | .el3 => 3

/-- The other of the two register names (R62). -/
def otherName : RegName → RegName
  | .sctlr2El2 => .sctlr2El1
  | .sctlr2El1 => .sctlr2El2

/-- The six fields, most significant first (R21). -/
def allFields : List ControlField := [.enIdcp128, .ease, .enAnerr, .enAderr, .nmea, .emec]

/-- A field's distance from the lowest field (the table of R21). -/
def fieldOffset : ControlField → Nat
  | .enIdcp128 => 5
  | .ease => 4
  | .enAnerr => 3
  | .enAderr => 2
  | .nmea => 1
  | .emec => 0

/-- The bit position of a field: `w` plus its offset, with `w = LOW_RES0_WIDTH` (R21; log 4). -/
def fieldPos (cfg : Config) (f : ControlField) : Nat := cfg.lowRes0Width + fieldOffset f

/-- `IMPL_f` (R31). -/
def implemented (cfg : Config) : ControlField → Bool
  | .enIdcp128 => cfg.implEnIdcp128
  | .ease => cfg.implEase
  | .enAnerr => cfg.implEnAnerr
  | .enAderr => cfg.implEnAderr
  | .nmea => cfg.implNmea
  | .emec => cfg.implEmec

/-- The stored bit of a field. -/
def fieldBit (cfg : Config) (v : Word) (f : ControlField) : Bool := v.getLsbD (fieldPos cfg f)

/-- The mask of one field: its bit if the field is implemented, else nothing (R29). -/
def fieldMask (cfg : Config) (f : ControlField) : Word :=
  if implemented cfg f then 1#64 <<< fieldPos cfg f else 0#64

/-- `FuncMask`: the OR over the implemented fields (R29). -/
def funcMask (cfg : Config) : Word := allFields.foldr (fun f m => fieldMask cfg f ||| m) 0#64

/-- `KeepMask` (R29). -/
def keepMask (cfg : Config) : Word := funcMask cfg ||| (cfg.res0StorageMask &&& ~~~funcMask cfg)

/-- What a write of `v` stores: "`SCTLR2_EL2 := v & KeepMask`" (R29). -/
def writeFilter (cfg : Config) (v : Word) : Word := v &&& keepMask cfg

/-- A stored value has no bit outside KeepMask: "`value & ~KeepMask == 0`" (R32). -/
abbrev Kept (cfg : Config) (v : Word) : Prop := v &&& ~~~keepMask cfg = 0#64

/-- The parameters R21 and R28 admit: `1 <= w <= 25`, and no RES0 storage bit at a field. -/
abbrev ConfigWf (cfg : Config) : Prop :=
  1 ≤ cfg.lowRes0Width ∧ cfg.lowRes0Width ≤ 25 ∧ cfg.res0StorageMask &&& funcMask cfg = 0#64

end Sys2Proof.Machine
end

