-- ==== Sys2Proof/Machine/Memory.lean ====
section
/-! DEFINITION. Memory: bytes at 64-bit addresses, as pairs with strictly rising addresses. An unlisted address reads
as nothing (none): the spec gives no memory contents (R46, R55; log 15). The width of an address is not in the spec
(R40): 64 bits is the model's choice (log 36). -/

namespace Sys2Proof.Machine

/-- A sparse memory. -/
abbrev Memory := List Host.Cell

/-- The canonical form: addresses strictly rising, each of 64 bits (DESIGN CHOICE, R40 leaves the width open, log 36).
An unlisted address reads as none, which is no byte, so no entry can equal it. -/
abbrev Memory.wf (m : Memory) : Prop :=
  List.Pairwise (fun p q : Host.Cell => p.1 < q.1) m ∧ ∀ c ∈ m, c.1 < 2 ^ 64

/-- The byte at an address, none where nothing is listed. -/
def Memory.read : Memory → Nat → Option Byte
  | [], _ => none
  | (k, b) :: m, a => if k = a then some b else Memory.read m a

/-- Writes one byte and keeps the order. -/
def Memory.write : Memory → Nat → Byte → Memory
  | [], a, v => [(a, v)]
  | (k, b) :: m, a, v =>
    if a < k then (a, v) :: (k, b) :: m
    else if a = k then (a, v) :: m
    else (k, b) :: Memory.write m a v

/-- Writes bytes at consecutive addresses. -/
def Memory.writeList : Memory → Nat → List Byte → Memory
  | m, _, [] => m
  | m, a, v :: vs => Memory.writeList (Memory.write m a v) (a + 1) vs

end Sys2Proof.Machine
end

