-- ==== Sys2Proof/Machine/State.lean ====
section
/-! DEFINITION. The state, the reasons a step stops, the environment's events, the turns, and the state after reset.
INVENTORY.md lists every field with its rule and its reset value. -/

namespace Sys2Proof.Machine

/-- Why the machine stops with a fault. Each is an exception or a fatal occurrence whose entry the spec leaves out
(R7, R11, R127, D9); all are safe, since nothing is claimed of what follows. -/
inductive Fault where
  /-- `raise Undefined`: an access form that is UNDEFINED (R105); raised by the four forms; safe. -/
  | undefined (word : InstrWord)
  /-- `raise SysTrap(target, ec)` (R106; the 6 bits of `ec` are PRESUMED, log 33): raised by the four forms with class 0x18 and by an EL0 access to an
  IMPLEMENTATION DEFINED 128-bit System register with class 0x14 (R112); safe. -/
  | sysTrap (target : EL) (ec : BitVec 6) (word : InstrWord)
  /-- `SyncDataAbort(r)`: an External abort on a read reported synchronously (R119), taken to `target` and, where EASE
  governs it, to the vector EASE selects (R115, log 20); safe. -/
  | syncDataAbort (r : AbortedRead) (target : EL) (vector : Option Word)
  /-- `Fatal(r)`: "a fault outcome of the whole PE from which no further step is defined" (R120); safe. -/
  | fatal (r : AbortedRead)
  /-- A synchronous External abort exception taken to EL2 at the vector EASE selects (R115); safe. -/
  | syncExternalAbort (vector : Word)
  /-- An SError exception taken at EL2 (R122), at its vector of VBAR_EL2 (R127); safe. -/
  | serror (target : EL) (vector : Word)
  deriving DecidableEq, Repr

/-- Why the model gives a step no meaning: R11, "the model refuses (the situation is outside what this spec gives a
meaning)". All are safe. -/
inductive Refusal where
  /-- An instruction without a meaning in `exec`; no instruction is left so. -/
  | notModelled (mnemonic : String)
  /-- An access form where EL2 is not implemented (R86, D23). -/
  | el2NotImplemented (word : InstrWord)
  /-- A fetched word that is none of the four forms (R77). -/
  | notInScope (word : InstrWord)
  /-- A fetch at an address that is no multiple of 4 (R54). -/
  | misalignedFetch (pc : Word)
  /-- A fetch of a byte that nothing has written (log 15). -/
  | fetchUnwritten (pc : Word)
  /-- A fetch of a byte of the slot after a store to the slot: fetch is not to be taken as coherent (R65; log 16). -/
  | fetchAfterStore (pc : Word)
  /-- A slot access with NVMEM_BASE no multiple of 8 (R54, D8). -/
  | nvmemMisaligned
  /-- A slot access the environment does not admit (R51, D8). -/
  | nvmemNotAdmitted
  /-- A name that is not in `IMPDEF_128_SYSREGS` (R112, R39). -/
  | not128Register (r : SysReg)
  /-- A 128-bit register access for which the environment reports a higher-priority exception (R112, U8). -/
  | higherPriorityException (r : SysReg)
  /-- A 128-bit register access that the control does not reach: EL1, EL3, EL0 outside `AppliesAtEL0`, or the guard of
  R112 false (D20). -/
  | access128OutsideControl (r : SysReg)
  /-- A 128-bit register access at EL2 while the functionality is disabled (R113, D18). -/
  | access128Disabled (r : SysReg)
  /-- A 128-bit register access that is not trapped by this control; what it then does is not in the spec (R113, U6). -/
  | access128NotTrapped (r : SysReg)
  /-- An External abort on a read outside the EL2 and EL2&0 regimes (R117 to R119). -/
  | abortOutsideRegimes (r : AbortedRead)
  /-- A synchronous External abort not taken to EL2, or with the guard of R115 false. -/
  | syncAbortOutsideControl (target : EL)
  /-- An SError the NMEA rule does not speak of: not executing at EL2, target not EL2, or the guard of R122 false. -/
  | serrorOutsideControl (target : EL)
  deriving DecidableEq, Repr

/-- `PendingAlias` (R42, R62): the value before the first unsynchronized write, and the (filtered) values written since
by each name, latest first. With writes by one name `A` only, this is the spec's `some (A, old value)` (log 10). -/
structure PendingAlias where
  before : Word
  byEl2 : List Word
  byEl1 : List Word
  deriving DecidableEq, Repr

/-- The write-to-effect window (R43, R149): values replaced since the last Sync. -/
structure EffectWindow where
  oldStored : List Word
  oldSctlr2En : List Bool
  deriving DecidableEq, Repr

/-- A TLB's remembered copy for one translation: `Eff.EMEC` (R41) and `MecEnabled` (R60) when it was created. -/
structure TlbEntry where
  translation : Nat
  effEmec : Bool
  mecEnabled : Bool
  deriving DecidableEq, Repr

/-- A memory access to the Realm physical address space: its regime (R57) and its `MecEnabled` attribute (R59). -/
structure RealmAccess where
  regime : Regime
  mecEnabled : Bool
  deriving DecidableEq, Repr

/-- Where the environment routes an External abort, which the source does not say (R119, R125; log 20): the target and
the source of the vector if it is reported synchronously, and the target of the SError if asynchronously. -/
structure AbortRouting where
  syncTarget : EL
  src : VectorSource
  serrorTarget : EL
  deriving DecidableEq, Repr

/-- The state outside this spec that a reset leaves, supplied by the environment (R46, R142). -/
structure ResetInputs where
  ctx : Ctx
  x : Vector Word 31
  pc : Word
  sctlr2El1 : Word
  pendingSErrors : List EL
  deriving DecidableEq, Repr

/-- What the environment can do between two forms (R10, R137; log 18). -/
inductive Event where
  /-- `Reset`: the one kind of reset (R44, R140, R141). -/
  | reset (r : ResetInputs)
  /-- `Sync`: explicit synchronization (R63). -/
  | sync
  /-- `TlbInvalidate` (R66). -/
  | tlbInvalidate
  /-- A TLB fills an entry for a translation (R41, R60). -/
  | tlbFill (translation : Nat)
  /-- The inputs of R10 that `Ctx` holds change. -/
  | setInputs (ctx : Ctx)
  /-- The environment supplies a general register (R10). -/
  | setX (t : Nat) (v : Word)
  /-- The environment supplies SCTLR2_EL1 (R10). -/
  | setSctlr2El1 (v : Word)
  /-- An instruction outside this spec moves the program counter (R7, log 18). -/
  | setPc (v : Word)
  /-- The environment, which owns the slot, stores to it (R10, R52). -/
  | slotStore (v : Word)
  /-- A memory access to the Realm physical address space, in a regime (R57), through a TLB entry for the translation if
  one is given (R58 to R60). -/
  | realmAccess (regime : Regime) (translation : Option Nat)
  /-- An External abort is reported on a read (R119). -/
  | externalAbort (r : AbortedRead) (route : AbortRouting)
  /-- A synchronous External abort exception is to be taken (R115). -/
  | syncExternalAbort (target : EL) (src : VectorSource)
  /-- An SError is made pending by another source, routed to `target` (R122).
  How one is cleared or rerouted is not in the spec (R125): in the model its target is fixed when it becomes pending, and
  no event but Reset clears or reroutes it (DESIGN CHOICE, log 21). -/
  | raiseSError (target : EL)
  /-- The PE is about to take the pending SError at this place of the list, if nothing masks it (R122), with this stack
  pointer in use (R116). -/
  | takeSError (index : Nat) (sp : StackPointer)
  /-- An instruction accesses an IMPLEMENTATION DEFINED 128-bit System register (R112, R113). -/
  | access128 (r : SysReg) (word : InstrWord) (higherPriority : Bool)
  deriving DecidableEq, Repr

/-- Whose turn it is: the environment's, with an event, or the PE's, with one instruction (R137; log 18). -/
inductive Turn where
  | environment (e : Event)
  | pe
  deriving DecidableEq, Repr

/-- The whole machine. -/
structure State where
  /-- The implementation (R8), never changed. -/
  cfg : Config
  /-- The environment's inputs (R10). -/
  ctx : Ctx
  /-- X0 to X30 (R34). -/
  x : Vector Word 31
  /-- The program counter (R35). -/
  pc : Word
  /-- The stored value of SCTLR2_EL2 (R20). -/
  sctlr2El2 : Word
  /-- SCTLR2_EL1 (R37). -/
  sctlr2El1 : Word
  /-- Unsynchronized writes by the two names (R42). -/
  pendingAlias : Option PendingAlias
  /-- The write-to-effect window (R43). -/
  effectWindow : EffectWindow
  /-- `TlbEMEC` (R41). -/
  tlbEmec : List TlbEntry
  /-- Targets of the pending SErrors, oldest first (R122); each fixed when it became pending, and cleared by a Reset alone
  (R125 leaves that open; DESIGN CHOICE, log 21). -/
  pendingSErrors : List EL
  /-- The last Realm access, with its attributes (R57, R59); the model's record (log 29). -/
  lastRealm : Option RealmAccess
  /-- Memory (R50, R53). -/
  mem : Memory
  /-- Whether a store has gone to the slot since the program was placed (R65); the model's own. -/
  slotStored : Bool
  /-- The coming turns, next first; when they are used up, every turn is the PE's (R137; log 18); the model's own. -/
  turns : List Turn
  /-- How many draws have been made (R11, D26); the model's own. -/
  draws : Nat
  deriving DecidableEq, Repr

/-- The outcomes of a step (R11). -/
abbrev Res := Host.Outcome State Fault Refusal

/-- The implementation State.reset stands for: the conventions of 95_test_vectors.md (DESIGN CHOICE, log 1). -/
def resetConfig : Config where
  featSctlr2 := true
  featVhe := false
  featFgt := false
  haveEl3 := true
  haveEl2 := true
  implEnIdcp128 := true
  implEase := true
  implEnAnerr := true
  implEnAderr := true
  implNmea := true
  implEmec := true
  lowRes0Width := 1
  res0StorageMask := 0#64
  el3TrapPriorityWhenSdd := false
  nvmemBase := 0x90000000#64
  nvmemByteOrder := .little
  impdef128Sysregs := []
  asyncErrAppliesN := []
  asyncErrAppliesD := []
  syncAbortImpossible := []

/-- The inputs after power-on: none is in the spec (R46), so the family's values, else 0 (PRESUMED and DESIGN CHOICE,
log 3); SCR_EL3.SCTLR2En is a draw (R142, log 2). -/
def resetCtx : Ctx where
  el := .el3
  pstateA := true
  el2Enabled := false
  halted := false
  edscrSdd := false
  hcrxEnabled := false
  hcrxSctlr2En := false
  hcrE2h := false
  hcrTge := false
  hcrNv := false
  hcrNv1 := false
  hcrNv2 := false
  hcrTvm := false
  hcrTrvm := false
  scrSctlr2En := Config.resetSctlr2En
  scrFgtEn := false
  hfgrtrSctlrEl1 := false
  hfgwtrSctlrEl1 := false
  vbarEl2 := 0#64
  esrEl2Ec := 0#6
  nvmemAdmitted := true

/-- The machine right after reset: SCTLR2_EL2 is "`RESET_VALUE & KeepMask`" with RESET_VALUE a draw, since the source
gives no bit a reset value (R44), and the hidden items are empty (R45); the rest is not in the spec (R46; log 2, log 3). -/
def State.reset : State where
  cfg := resetConfig
  ctx := resetCtx
  x := Vector.replicate 31 0#64
  pc := 0#64
  sctlr2El2 := writeFilter resetConfig (Config.resetValue 0)
  sctlr2El1 := 0#64
  pendingAlias := none
  effectWindow := ⟨[], []⟩
  tlbEmec := []
  pendingSErrors := []
  lastRealm := none
  mem := []
  slotStored := false
  turns := []
  draws := 1

end Sys2Proof.Machine
end

