-- ==== Sys2Proof/Machine/Operands.lean ====
section
/-! DEFINITION. The one operand form of the forms: the general register `X[t, 64]` (R34, R75), and the NVMem slot a
form can reach in place of a register (R50 to R55). -/

namespace Sys2Proof.Machine

/-- `x[t]`: X0 to X30, and 0 for the zero register 31 (R34, D10). -/
def State.readX (s : State) (t : Nat) : Word := if h : t < 31 then s.x[t] else 0#64

/-- `x[t] <- v`: register 31 discards the value (R34, D10). -/
def State.writeX (s : State) (t : Nat) (v : Word) : State := { s with x := s.x.setIfInBounds t v }

/-- `NVMemAddr(0x278)` (R51), an address of 64 bits, at which the sum wraps (DESIGN CHOICE, R40 leaves the width open;
log 17, log 36). -/
def slotAddr (cfg : Config) : Nat := (cfg.nvmemBase + 0x278#64).toNat

/-- Why the slot access has no meaning, if it has none (R51, R54, D8). -/
def slotRefusal (s : State) : Option Refusal :=
  if s.cfg.nvmemBase.toNat % 8 ≠ 0 then some .nvmemMisaligned
  else if !s.ctx.nvmemAdmitted then some .nvmemNotAdmitted
  else none

/-- The eight bytes of a doubleword in memory order (R53). -/
def wordToBytes (o : ByteOrder) (v : Word) : List Byte :=
  let little := (List.range 8).map (fun i => v.extractLsb' (8 * i) 8)
  match o with
  | .little => little
  | .big => little.reverse

/-- The doubleword of eight bytes, the first least significant. -/
def littleWord : List Byte → Word
  | [] => 0#64
  | b :: bs => (littleWord bs <<< 8) ||| b.setWidth 64

/-- The doubleword of the bytes in memory order (R53). -/
def bytesToWord (o : ByteOrder) (bs : List Byte) : Word :=
  match o with
  | .little => littleWord bs
  | .big => littleWord bs.reverse

/-- The eight bytes the slot's addresses hold, none where nothing was written. -/
def slotCells (s : State) : List (Option Byte) :=
  (List.range 8).map (fun i => s.mem.read (slotAddr s.cfg + i))

/-- All the inputs of R10, as the state holds them. -/
def State.inputs (s : State) : Inputs := ⟨s.ctx, s.x, s.sctlr2El1, slotCells s⟩

/-- Whether every byte of the slot has been written. -/
def slotWritten (s : State) : Bool := (slotCells s).all Option.isSome

/-- `MemRead(NVMemAddr(0x278), 8)`: a byte nothing has written is a draw (R51, R55; log 15). -/
def slotValue (s : State) : Word :=
  bytesToWord s.cfg.nvmemByteOrder
    (((slotCells s).zip (wordToBytes .little (Config.freeWord s.draws))).map (fun p => p.1.getD p.2))

/-- The state after reading the slot: only a draw is used up, where one was made.
Memory stays as it is, so a read of written bytes is idempotent: the spec is silent on that (R55), and it is the model's
choice (DESIGN CHOICE, log 15). -/
def afterSlotRead (s : State) : State :=
  { s with draws := if slotWritten s then s.draws else s.draws + 1 }

/-- `MemWrite(NVMemAddr(0x278), 8, v)`: all 64 bits, unfiltered (R90). -/
def writeSlot (v : Word) (s : State) : State :=
  { s with
    mem := s.mem.writeList (slotAddr s.cfg) (wordToBytes s.cfg.nvmemByteOrder v)
    slotStored := true }

end Sys2Proof.Machine
end

