-- ==== Sys2Proof/Machine/Flags.lean ====
section
/-! DEFINITION. The machine has no condition flags (R36, R94). What the PE acts on are the effective values of the six
control bits (R30), drawn from old and new inside the write-to-effect window (R43, R149), under the guards of R3, R4. -/

namespace Sys2Proof.Machine

/-- `EL2Enabled()`: EL2 is implemented and enabled in the current Security state (R10, R131, D23; log 9). -/
def State.el2Enabled (s : State) : Bool := s.cfg.haveEl2 && s.ctx.el2Enabled

/-- `AppliesAtEL0` (R3). -/
def appliesAtEl0 (s : State) : Bool := s.cfg.featVhe && s.ctx.hcrE2h && s.ctx.hcrTge

/-- `ControlsApply(el)` (R3). -/
def controlsApply (s : State) (el : EL) : Bool := el == .el2 || (el == .el0 && appliesAtEl0 s)

/-- The guard of every effect rule: the register is present (R2), the field is implemented (R30) and EL2 is enabled
(R4). -/
def effectsApply (s : State) (f : ControlField) : Bool :=
  s.cfg.featSctlr2 && implemented s.cfg f && s.el2Enabled

/-- The `FORCE_ONE_` predicate of a field; only EnANERR and EnADERR have one (R30). -/
def forceOne (cfg : Config) (i : Inputs) : ControlField → Bool
  | .enAnerr => Config.forceOneEnAnerr cfg i
  | .enAderr => Config.forceOneEnAderr cfg i
  | .enIdcp128 => false
  | .ease => false
  | .nmea => false
  | .emec => false

/-- `Eff.f` of a stored value (R30). -/
def eff (cfg : Config) (i : Inputs) (stored : Word) (f : ControlField) : Bool :=
  if cfg.haveEl3 && !i.ctx.scrSctlr2En then false
  else if forceOne cfg i f then true
  else fieldBit cfg stored f

/-- `Eff.f` of the current stored value and inputs. -/
def effNow (s : State) (f : ControlField) : Bool := eff s.cfg s.inputs s.sctlr2El2 f

/-- A draw among `a` and the values of `rest` (R11). -/
def pick {α : Type} (n : Nat) (a : α) (rest : List α) : α :=
  (a :: rest).getD (Config.freeChoice n % (rest.length + 1)) a

/-- No write or change of SCR_EL3.SCTLR2En since the last Sync. -/
def EffectWindow.closed (w : EffectWindow) : Bool := w.oldStored.isEmpty && w.oldSctlr2En.isEmpty

/-- Every value `Eff.f` may be computed as inside the window: from the current or an old stored value and the current
or an old SCR_EL3.SCTLR2En (R43, R149). -/
def effCandidates (s : State) (f : ControlField) : List Bool :=
  (s.ctx.scrSctlr2En :: s.effectWindow.oldSctlr2En).flatMap fun en =>
    (s.sctlr2El2 :: s.effectWindow.oldStored).map fun v =>
      eff s.cfg { s.inputs with ctx := { s.ctx with scrSctlr2En := en } } v f

/-- `Eff.f` as one use sees it: the current value, or inside the window a draw (R43). -/
def effSeen (s : State) (f : ControlField) : Bool :=
  if s.effectWindow.closed then effNow s f else pick s.draws (effNow s f) (effCandidates s f)

/-- The state after one use of an effective value: only a draw is used up, where one was made. -/
def afterEff (s : State) : State :=
  { s with draws := if s.effectWindow.closed then s.draws else s.draws + 1 }

end Sys2Proof.Machine
end

