-- ==== Sys2Proof/Machine/Ops.lean ====
section
/-! DEFINITION. The shared operations of the access forms: raising an exception, reading and writing SCTLR2_EL2 under
the alias ordering statement, and the routing of an access by each register name. -/

namespace Sys2Proof.Machine

/-- `pc <- pc + 4` of a form that completes (R35, D17). -/
def State.advance (s : State) : State := { s with pc := s.pc + 4#64 }

/-! ### Exceptions -/

/-- Taking an exception, as far as the spec describes it: the step ends in the named fault outcome and changes no state
(R11, R105, R106, R127, D9; log 8). The spec describes no return from one (R128). -/
def raise (e : Fault) : Res := .fault e

/-- `raise Undefined` (R105). -/
def raiseUndefined (word : InstrWord) : Res := raise (.undefined word)

/-- `raise SysTrap(target, ec)` (R106). -/
def raiseSysTrap (target : EL) (ec : BitVec 6) (word : InstrWord) : Res := raise (.sysTrap target ec word)

/-! ### SCTLR2_EL2 by its two names -/

/-- The precondition of the alias ordering statement: `FEAT_VHE && HCR_EL2.E2H == 1 && PSTATE.EL == EL2` (R62). -/
def aliasApplies (s : State) : Bool := s.cfg.featVhe && s.ctx.hcrE2h && s.ctx.el == .el2

/-- The unsynchronized writes by a name, latest first. -/
def PendingAlias.writesBy (p : PendingAlias) : RegName → List Word
  | .sctlr2El2 => p.byEl2
  | .sctlr2El1 => p.byEl1

/-- What program order alone gives an access by a name: its own latest write, else the value before the window. -/
def PendingAlias.ownView (p : PendingAlias) (n : RegName) : Word := (p.writesBy n).headD p.before

/-- Adds a write by a name. -/
def PendingAlias.record (p : PendingAlias) : RegName → Word → PendingAlias
  | .sctlr2El2, v => { p with byEl2 := v :: p.byEl2 }
  | .sctlr2El1, v => { p with byEl1 := v :: p.byEl1 }

/-- The window an access by `n` races with: an open one that holds a write by the other name (R62). -/
def raceWith (n : RegName) (s : State) : Option PendingAlias :=
  if aliasApplies s then
    s.pendingAlias.filter (fun p => !(p.writesBy (otherName n)).isEmpty)
  else none

/-- What a read by name `n` returns: the stored value (R32), or a draw that an unsynchronized write by the other name
leaves open (R62; log 10). -/
def readValue (n : RegName) (s : State) : Word :=
  match raceWith n s with
  | none => s.sctlr2El2
  | some p => pick s.draws s.sctlr2El2 (p.ownView n :: p.writesBy (otherName n))

/-- The state after an access by name `n` has made its draw, if it made one. -/
def drawsAfter (n : RegName) (s : State) : Nat :=
  if (raceWith n s).isSome then s.draws + 1 else s.draws

/-- A read has no side effect on the register (R32); it may use up a draw. -/
def afterRead (n : RegName) (s : State) : State := { s with draws := drawsAfter n s }

/-- What a write of `v` by name `n` leaves stored: the filtered value (R29), or a draw between it and the other name's
latest unsynchronized write (R62). -/
def storedAfter (n : RegName) (v : Word) (s : State) : Word :=
  match raceWith n s with
  | none => writeFilter s.cfg v
  | some p => pick s.draws (writeFilter s.cfg v) [p.ownView (otherName n)]

/-- The alias window after a write of `v` by name `n` (R42, R62): opened with the old stored value, or extended. -/
def aliasAfter (n : RegName) (v : Word) (s : State) : Option PendingAlias :=
  if aliasApplies s then
    some ((s.pendingAlias.getD ⟨s.sctlr2El2, [], []⟩).record n (writeFilter s.cfg v))
  else s.pendingAlias

/-- The write-to-effect window after a write of `v` by name `n`: the replaced value joins it (R43, R88), and in a race
so does the written value, which may have been stored in between. -/
def windowAfter (n : RegName) (v : Word) (s : State) : EffectWindow :=
  { s.effectWindow with
    oldStored :=
      match raceWith n s with
      | none => s.sctlr2El2 :: s.effectWindow.oldStored
      | some _ => writeFilter s.cfg v :: s.sctlr2El2 :: s.effectWindow.oldStored }

/-- `SCTLR2_EL2 <- v` by name `n`: the register through its filter, and the hidden items (R88, R90). -/
def writeSctlr2El2 (n : RegName) (v : Word) (s : State) : State :=
  { s with
    sctlr2El2 := storedAfter n v s
    pendingAlias := aliasAfter n v s
    effectWindow := windowAfter n v s
    draws := drawsAfter n s }

/-- `SCTLR2_EL1 <- v` through `WriteFilterEL1` (R37). -/
def writeSctlr2El1 (v : Word) (s : State) : State := { s with sctlr2El1 := Config.writeFilterEl1 v }

/-! ### Routing an access (R85 to R93) -/

/-- Read or write: which trap controls of HCR_EL2 and of the fine-grained traps apply (R92). -/
inductive Direction where
  | read
  | write
  deriving DecidableEq, Repr

/-- Where the tests of an access form lead. -/
inductive Route where
  /-- `raise Undefined`. -/
  | undefined
  /-- `raise SysTrap(target, 0x18)`. -/
  | trap (target : EL)
  /-- The model refuses: EL2 is not implemented (R86, D23). -/
  | noEl2
  /-- The access reaches SCTLR2_EL2. -/
  | sctlr2El2
  /-- The access reaches SCTLR2_EL1. -/
  | sctlr2El1
  /-- The access is redirected to `NVMem[0x278]`. -/
  | nvmem
  deriving DecidableEq, Repr

/-- `SddEarly` (R85). -/
def sddEarly (s : State) : Bool :=
  s.ctx.halted && s.cfg.haveEl3 && s.ctx.edscrSdd && s.cfg.el3TrapPriorityWhenSdd && !s.ctx.scrSctlr2En

/-- `El3Off` (R85). -/
def el3Off (s : State) : Bool := s.cfg.haveEl3 && !s.ctx.scrSctlr2En

/-- `El3Gate` (R85). -/
def el3Gate (s : State) : Route :=
  if s.ctx.halted && s.ctx.edscrSdd then .undefined else .trap .el3

/-- The presence gate of all four forms (R86). -/
def present (s : State) (r : Route) : Route :=
  if !s.cfg.featSctlr2 then .undefined else if !s.cfg.haveEl2 then .noEl2 else r

/-- The tests of the forms that name SCTLR2_EL2 (R87, R88). -/
def routeEl2Name (s : State) : Route :=
  present s <|
    match s.ctx.el with
    | .el0 => .undefined
    | .el1 => if s.el2Enabled && s.ctx.hcrNv then .trap .el2 else .undefined
    | .el2 => if sddEarly s then .undefined else if el3Off s then el3Gate s else .sctlr2El2
    | .el3 => .sctlr2El2

/-- `HCR_EL2.TRVM` for the read, `HCR_EL2.TVM` for the write (R92). -/
def vmTrap (d : Direction) (s : State) : Bool :=
  match d with
  | .read => s.ctx.hcrTrvm
  | .write => s.ctx.hcrTvm

/-- `HFGRTR_EL2.SCTLR_EL1` for the read, `HFGWTR_EL2.SCTLR_EL1` for the write (R92). -/
def fineGrainedBit (d : Direction) (s : State) : Bool :=
  match d with
  | .read => s.ctx.hfgrtrSctlrEl1
  | .write => s.ctx.hfgwtrSctlrEl1

/-- The tests of the forms that name SCTLR2_EL1 (R89, R90). -/
def routeEl1Name (d : Direction) (s : State) : Route :=
  present s <|
    match s.ctx.el with
    | .el0 => .undefined
    | .el1 =>
      if sddEarly s then .undefined
      else if s.el2Enabled && vmTrap d s then .trap .el2
      else if s.el2Enabled && s.cfg.featFgt && (!s.cfg.haveEl3 || s.ctx.scrFgtEn) && fineGrainedBit d s then
        .trap .el2
      else if s.el2Enabled && (!s.ctx.hcrxEnabled || !s.ctx.hcrxSctlr2En) then .trap .el2
      else if el3Off s then el3Gate s
      else if s.el2Enabled && s.ctx.hcrNv2 && s.ctx.hcrNv1 && s.ctx.hcrNv then .nvmem
      else .sctlr2El1
    | .el2 =>
      if sddEarly s then .undefined
      else if el3Off s then el3Gate s
      else if s.ctx.hcrE2h then .sctlr2El2
      else .sctlr2El1
    | .el3 => .sctlr2El1

/-- A read form with register `t`, by name `n`, along its route. -/
def performRead (n : RegName) (word : InstrWord) (t : Nat) (r : Route) (s : State) : Res :=
  match r with
  | .undefined => raiseUndefined word
  | .trap target => raiseSysTrap target 0x18#6 word
  | .noEl2 => .refused (.el2NotImplemented word)
  | .sctlr2El2 => .next (((afterRead n s).writeX t (readValue n s)).advance)
  | .sctlr2El1 => .next ((s.writeX t s.sctlr2El1).advance)
  | .nvmem =>
    match slotRefusal s with
    | some e => .refused e
    | none => .next (((afterSlotRead s).writeX t (slotValue s)).advance)

/-- A write form with register `t`, by name `n`, along its route. -/
def performWrite (n : RegName) (word : InstrWord) (t : Nat) (r : Route) (s : State) : Res :=
  match r with
  | .undefined => raiseUndefined word
  | .trap target => raiseSysTrap target 0x18#6 word
  | .noEl2 => .refused (.el2NotImplemented word)
  | .sctlr2El2 => .next ((writeSctlr2El2 n (s.readX t) s).advance)
  | .sctlr2El1 => .next ((writeSctlr2El1 (s.readX t) s).advance)
  | .nvmem =>
    match slotRefusal s with
    | some e => .refused e
    | none => .next ((writeSlot (s.readX t) s).advance)

end Sys2Proof.Machine
end

