-- ==== Sys2Proof/Machine/SysregAccess.lean ====
section
/-! DEFINITION. The family of System register access forms: one meaning for each (R87 to R90). -/

namespace Sys2Proof.Machine

/-- `MRS <Xt>, SCTLR2_EL2` (R87). -/
def execMrsSctlr2El2 (t : Nat) (s : State) : Res :=
  performRead .sctlr2El2 (encode (.mrsSctlr2El2 t)) t (routeEl2Name s) s

/-- `MSR SCTLR2_EL2, <Xt>` (R88). -/
def execMsrSctlr2El2 (t : Nat) (s : State) : Res :=
  performWrite .sctlr2El2 (encode (.msrSctlr2El2 t)) t (routeEl2Name s) s

/-- `MRS <Xt>, SCTLR2_EL1` (R89). -/
def execMrsSctlr2El1 (t : Nat) (s : State) : Res :=
  performRead .sctlr2El1 (encode (.mrsSctlr2El1 t)) t (routeEl1Name .read s) s

/-- `MSR SCTLR2_EL1, <Xt>` (R90). -/
def execMsrSctlr2El1 (t : Nat) (s : State) : Res :=
  performWrite .sctlr2El1 (encode (.msrSctlr2El1 t)) t (routeEl1Name .write s) s

end Sys2Proof.Machine
end

