-- ==== Sys2Proof/Machine/Dispatch.lean ====
section
/-! DEFINITION. The dispatch from instructions to their meanings. -/

namespace Sys2Proof.Machine

def exec (i : Instr) (s : State) : Host.Outcome State Fault Refusal :=
  match i with
  | .mrsSctlr2El2 t => Sys2Proof.Machine.execMrsSctlr2El2 t s
  | .msrSctlr2El2 t => Sys2Proof.Machine.execMsrSctlr2El2 t s
  | .mrsSctlr2El1 t => Sys2Proof.Machine.execMrsSctlr2El1 t s
  | .msrSctlr2El1 t => Sys2Proof.Machine.execMsrSctlr2El1 t s

end Sys2Proof.Machine
end

