-- ==== Sys2Proof/Machine/Exceptions.lean ====
section
/-! DEFINITION. What the spec says of exception entry beyond the fault outcome: the vector EASE selects (R115, R116), and,
as general knowledge the model exposes and does not build on (R105, R107; log 27), the class, syndrome, return address
and vector a fault of an access form would record. `step` uses the vectors of External aborts and SErrors only. -/

namespace Sys2Proof.Machine

/-- `SyncOffset` (R116). -/
def syncOffset : VectorSource → Word
  | .sameElSp0 => 0x000#64
  | .sameElSpx => 0x200#64
  | .lowerAArch64 => 0x400#64
  | .lowerAArch32 => 0x600#64

/-- `SErrorOffset` (R116). -/
def serrorOffset : VectorSource → Word
  | .sameElSp0 => 0x180#64
  | .sameElSpx => 0x380#64
  | .lowerAArch64 => 0x580#64
  | .lowerAArch32 => 0x780#64

/-- `VectorAddress(e)` of a synchronous External abort taken to EL2, for a value of `Eff.EASE` (R115). -/
def vectorAddress (s : State) (ease : Bool) (src : VectorSource) : Word :=
  s.ctx.vbarEl2 + (if ease then serrorOffset src else syncOffset src)

/-- The vector EASE selects for a synchronous External abort with this target: none where the rule does not apply, which
is outside EL2 and outside its guard (R115).
"from whatever Exception level it is taken" (R115): there is no test of the current level, also at EL1 and EL3 (log 35). -/
def easeVector (target : EL) (src : VectorSource) (s : State) : Option Word :=
  if target == .el2 && effectsApply s .ease then some (vectorAddress s (effSeen s .ease) src) else none

/-- The instruction-specific syndrome of a trapped System register move (R107):
Op0 21:20, Op2 19:17, Op1 16:14, CRn 13:10, Rt 9:5, CRm 4:1, Direction 0 (1 = read). -/
def sysTrapIss (w : InstrWord) : BitVec 25 :=
  0b000#3 ++ (0b1#1 ++ w.extractLsb' 19 1) ++ w.extractLsb' 5 3 ++ w.extractLsb' 16 3 ++ w.extractLsb' 12 4
    ++ w.extractLsb' 0 5 ++ w.extractLsb' 8 4 ++ w.extractLsb' 21 1

/-- The source of an exception taken from the level it is taken to (R116). -/
def sameElSource : StackPointer → VectorSource
  | .sp0 => .sameElSp0
  | .spx => .sameElSpx

/-- The vector of an SError taken at EL2 to EL2: an "offset from VBAR_EL2" (R127), the SError offset for the same level
(R116; log 22). -/
def serrorVector (s : State) (sp : StackPointer) : Word := s.ctx.vbarEl2 + serrorOffset (sameElSource sp)

/-- Where an UNDEFINED form's exception is taken: none in Debug state, where an error flag is set instead (R105). -/
def undefinedTarget (s : State) : Option EL :=
  if s.ctx.halted then none
  else
    match s.ctx.el with
    | .el0 => if s.ctx.hcrTge then some .el2 else some .el1
    | .el1 => some .el1
    | .el2 => some .el2
    | .el3 => some .el3

/-- The synchronous vector of an exception with this target that is no External abort: "offset from VBAR_EL2" (R127).
VBAR_EL1 and VBAR_EL3 are not among the registers the spec names. -/
def entryVector (s : State) (src : VectorSource) : EL → Option Word
  | .el2 => some (vectorAddress s false src)
  | .el0 => none
  | .el1 => none
  | .el3 => none

/-- Where an UNDEFINED form's exception is taken from, if it is taken to EL2: EL2 itself, or EL0 in AArch64 (R105,
D25). -/
def undefinedSource (s : State) (sp : StackPointer) : VectorSource :=
  if s.ctx.el = .el2 then sameElSource sp else .lowerAArch64

/-- What entry for a fault of an access form would record (R105, R107). -/
structure EntryRecord where
  /-- The Exception level taken to. -/
  target : EL
  /-- `ESR_ELx.EC`. -/
  ec : BitVec 6
  /-- `ESR_ELx.ISS`, given for class 0x18 only. -/
  iss : Option (BitVec 25)
  /-- The preferred return address: the address of the instruction. -/
  returnAddress : Word
  /-- The vector, where VBAR of the target is an input of the spec. -/
  vector : Option Word
  deriving DecidableEq, Repr

/-- The entry record of a fault, with this stack pointer in use; none where the spec gives none: an External abort and an
SError carry their vector themselves.
A SysTrap always comes from a lower Exception level in AArch64 (R106, R107, D25). -/
def entryRecord (s : State) (sp : StackPointer) : Fault → Option EntryRecord
  | .undefined _ =>
    (undefinedTarget s).map (fun el => ⟨el, 0x00#6, none, s.pc, entryVector s (undefinedSource s sp) el⟩)
  | .sysTrap target ec w =>
    some ⟨target, ec, if ec = 0x18#6 then some (sysTrapIss w) else none, s.pc, entryVector s .lowerAArch64 target⟩
  | .syncDataAbort _ _ _ => none
  | .fatal _ => none
  | .syncExternalAbort _ => none
  | .serror _ _ => none

end Sys2Proof.Machine
end

