-- ==== Sys2Proof/Machine/Events.lean ====
section
/-! DEFINITION. What the environment's events do (R63, R66, R137, R140), and the effects of the six fields they bring
out: EMEC on Realm accesses, EnANERR and EnADERR on External aborts, EASE on their vector, NMEA on SErrors, EnIDCP128 on
128-bit System registers. Each handler is given the state with its turn already taken off the list. -/

namespace Sys2Proof.Machine

/-- `Reset` (R44, R45, R140): the register is a fresh draw, filtered; the hidden items are empty; the rest is the
environment's (R46, log 24). Memory is left as it is. -/
def onReset (r : ResetInputs) (s : State) : Res :=
  .next { s with
    ctx := r.ctx
    x := r.x
    pc := r.pc
    sctlr2El1 := r.sctlr2El1
    pendingSErrors := r.pendingSErrors
    sctlr2El2 := writeFilter s.cfg (Config.resetValue s.draws)
    pendingAlias := none
    effectWindow := ⟨[], []⟩
    tlbEmec := []
    lastRealm := none
    draws := s.draws + 1 }

/-- `Sync` empties `PendingAlias` and ends the write-to-effect window (R63). -/
def onSync (s : State) : Res := .next { s with pendingAlias := none, effectWindow := ⟨[], []⟩ }

/-- `TlbInvalidate` empties `TlbEMEC` (R66). -/
def onTlbInvalidate (s : State) : Res := .next { s with tlbEmec := [] }

/-- `MecEnabled` for a value of `Eff.EMEC` (R59). -/
def mecEnabled (s : State) (e : Bool) : Bool := effectsApply s .emec && e

/-- A TLB entry is created and remembers EMEC as it was then (R41, R60), if the field is implemented (R30).
The entry holds this PE's own value: that the TLB is not shared with another PE is the model's choice, which the spec
leaves open (R133, log 14). -/
def onTlbFill (translation : Nat) (s : State) : Res :=
  let e := implemented s.cfg .emec && effSeen s .emec
  .next { afterEff s with
    tlbEmec := ⟨translation, e, mecEnabled s e⟩ :: s.tlbEmec.filter (fun c => c.translation != translation) }

/-- The inputs change; a change of SCR_EL3.SCTLR2En joins the write-to-effect window (R149). -/
def onSetInputs (c : Ctx) (s : State) : Res :=
  .next { s with
    ctx := c
    effectWindow := { s.effectWindow with
      oldSctlr2En :=
        if c.scrSctlr2En = s.ctx.scrSctlr2En then s.effectWindow.oldSctlr2En
        else s.ctx.scrSctlr2En :: s.effectWindow.oldSctlr2En } }

/-- The environment supplies a general register; register 31 discards it (R10, R34). -/
def onSetX (t : Nat) (v : Word) (s : State) : Res := .next (s.writeX t v)

/-- The environment supplies SCTLR2_EL1: not an access, so no filter (R10, R37). -/
def onSetSctlr2El1 (v : Word) (s : State) : Res := .next { s with sctlr2El1 := v }

/-- An instruction outside this spec moves the program counter (R7, log 18). -/
def onSetPc (v : Word) (s : State) : Res := .next { s with pc := v }

/-- The environment stores to the slot it owns (R52). -/
def onSlotStore (v : Word) (s : State) : Res :=
  if s.cfg.nvmemBase.toNat % 8 ≠ 0 then .refused .nvmemMisaligned else .next (writeSlot v s)

/-- The TLB entry an access hits. -/
def tlbHit (s : State) (translation : Option Nat) : Option TlbEntry :=
  translation.bind (fun t => s.tlbEmec.find? (fun c => c.translation == t))

/-- The `MecEnabled` attribute of a Realm access (R59), and the draw counter after it.
Where the guard of R58 is false, MEC is not enabled. Where the controls do not apply to execution at the current
Exception level, the register has no effect (R3, R130), and what then decides is not in the spec: a draw, whatever is
stored (log 35). Else the current value, or, through a TLB entry, a draw with the remembered ones (R60). -/
def realmAttribute (translation : Option Nat) (s : State) : Bool × Nat :=
  if !effectsApply s .emec then (false, s.draws)
  else if !controlsApply s s.ctx.el then (pick s.draws false [true], s.draws + 1)
  else
    match tlbHit s translation with
    | none => (effSeen s .emec, (afterEff s).draws)
    | some c =>
      (pick (afterEff s).draws (effSeen s .emec) [c.effEmec, c.mecEnabled], (afterEff s).draws + 1)

/-- A Realm access is recorded with its regime and its attribute (R57, R59).
Which regimes the control covers is not in the spec (R59): the model covers every one (DESIGN CHOICE, log 35). -/
def onRealmAccess (regime : Regime) (translation : Option Nat) (s : State) : Res :=
  .next { s with
    lastRealm := some ⟨regime, (realmAttribute translation s).1⟩
    draws := (realmAttribute translation s).2 }

/-- How an External abort on a read is reported (R119). -/
inductive Report where
  | sync
  | async
  | fatal
  deriving DecidableEq, Repr

/-- Delivers a report: a Data Abort, at the vector EASE selects if it is taken to EL2 (R115), or `Fatal` ends the run; an
asynchronous one makes an SError pending (R119, R125). -/
def deliver (rep : Report) (r : AbortedRead) (route : AbortRouting) (s : State) : Res :=
  match rep with
  | .sync => raise (.syncDataAbort r route.syncTarget (easeVector route.syncTarget route.src s))
  | .async => .next { s with pendingSErrors := s.pendingSErrors ++ [route.serrorTarget] }
  | .fatal => raise (.fatal r)

/-- The field that governs a read: EnANERR for Normal, EnADERR for Device memory (R119). -/
def abortField (r : AbortedRead) : ControlField :=
  match r.memType with
  | .normal => .enAnerr
  | .device => .enAderr

/-- A parameter that the implementation states for some arguments and that is open for the others (log 25). -/
def statedOr {α : Type} [DecidableEq α] (stated : List (α × Bool)) (other : α → Bool) (a : α) : Bool :=
  (stated.lookup a).getD (other a)

/-- The applicability parameter that goes with the field (R119). -/
def asyncApplies (cfg : Config) (r : AbortedRead) : Bool :=
  match r.memType with
  | .normal => statedOr cfg.asyncErrAppliesN Config.openAsyncErrN r.kind
  | .device => statedOr cfg.asyncErrAppliesD Config.openAsyncErrD r.kind

/-- `SYNC_ABORT_IMPOSSIBLE` (R120). -/
def syncImpossible (cfg : Config) (r : AbortedRead) : Bool :=
  statedOr cfg.syncAbortImpossible Config.openSyncAbortImpossible r

/-- An External abort on a read (R119, R120). Where the field does not apply, any report (log 20): also where the controls
do not apply to execution at the current Exception level, at which the register has no effect (R3, R130; log 35). -/
def onExternalAbort (r : AbortedRead) (route : AbortRouting) (s : State) : Res :=
  if r.regime = .other then .refused (.abortOutsideRegimes r)
  else if !effectsApply s (abortField r) || !controlsApply s s.ctx.el || !asyncApplies s.cfg r then
    deliver (pick s.draws .sync [.async, .fatal]) r route { s with draws := s.draws + 1 }
  else if effSeen s (abortField r) then
    deliver (pick (afterEff s).draws .sync [.async]) r route { s with draws := (afterEff s).draws + 1 }
  else if syncImpossible s.cfg r then deliver .fatal r route (afterEff s)
  else deliver .sync r route (afterEff s)

/-- A synchronous External abort exception taken to EL2, at the vector EASE selects (R115; log 22). -/
def onSyncExternalAbort (target : EL) (src : VectorSource) (s : State) : Res :=
  match easeVector target src s with
  | none => .refused (.syncAbortOutsideControl target)
  | some v => raise (.syncExternalAbort v)

/-- An SError becomes pending (R122), with the target it keeps (log 21). -/
def onRaiseSError (target : EL) (s : State) : Res :=
  .next { s with pendingSErrors := s.pendingSErrors ++ [target] }

/-- The PE is about to take a pending SError (R122, R123): at EL2 with target EL2 it is taken, unless PSTATE.A masks it
and NMEA does not lift the mask; then it stays pending. Outside the rule, refused (log 21). -/
def onTakeSError (index : Nat) (sp : StackPointer) (s : State) : Res :=
  match s.pendingSErrors[index]? with
  | none => .next s
  | some target =>
    if s.ctx.el ≠ .el2 || target ≠ .el2 || !effectsApply s .nmea then .refused (.serrorOutsideControl target)
    else if effSeen s .nmea || !s.ctx.pstateA then raise (.serror target (serrorVector s sp))
    else .next (afterEff s)

/-- An access to an IMPLEMENTATION DEFINED 128-bit System register (R112, R113; log 23). -/
def onAccess128 (r : SysReg) (word : InstrWord) (higherPriority : Bool) (s : State) : Res :=
  if !s.cfg.impdef128Sysregs.contains r then .refused (.not128Register r)
  else if higherPriority then .refused (.higherPriorityException r)
  else if !effectsApply s .enIdcp128 || !controlsApply s s.ctx.el then .refused (.access128OutsideControl r)
  else if effSeen s .enIdcp128 then .refused (.access128NotTrapped r)
  else if s.ctx.el = .el0 then raiseSysTrap .el2 0x14#6 word
  else .refused (.access128Disabled r)

/-- What an event does. -/
def runEvent (e : Event) (s : State) : Res :=
  match e with
  | .reset r => onReset r s
  | .sync => onSync s
  | .tlbInvalidate => onTlbInvalidate s
  | .tlbFill translation => onTlbFill translation s
  | .setInputs c => onSetInputs c s
  | .setX t v => onSetX t v s
  | .setSctlr2El1 v => onSetSctlr2El1 v s
  | .setPc v => onSetPc v s
  | .slotStore v => onSlotStore v s
  | .realmAccess regime translation => onRealmAccess regime translation s
  | .externalAbort r route => onExternalAbort r route s
  | .syncExternalAbort target src => onSyncExternalAbort target src s
  | .raiseSError target => onRaiseSError target s
  | .takeSError index sp => onTakeSError index sp s
  | .access128 r word higherPriority => onAccess128 r word higherPriority s

end Sys2Proof.Machine
end

