-- ==== Sys2Proof/Machine/Fetch.lean ====
section
/-! DEFINITION. Fetching an instruction: four bytes at a multiple of 4, little-endian (R53, R54, D16), and placing one
from outside. -/

namespace Sys2Proof.Machine

/-- Whether the four bytes at `a` meet the slot. -/
def meetsSlot (cfg : Config) (a : Nat) : Bool := a < slotAddr cfg + 8 && slotAddr cfg < a + 4

/-- The four bytes at the program counter, or why there are none (log 15, log 16). -/
def fetchBytes (s : State) : Except Refusal (List Byte) :=
  if s.pc.toNat % 4 ≠ 0 then .error (.misalignedFetch s.pc)
  else if s.slotStored && meetsSlot s.cfg s.pc.toNat then .error (.fetchAfterStore s.pc)
  else
    match s.mem.read s.pc.toNat, s.mem.read (s.pc.toNat + 1), s.mem.read (s.pc.toNat + 2),
      s.mem.read (s.pc.toNat + 3) with
    | some b0, some b1, some b2, some b3 => .ok [b0, b1, b2, b3]
    | _, _, _, _ => .error (.fetchUnwritten s.pc)

/-- The instruction at the program counter; a word outside the four forms is refused (R77). -/
def fetchInstr (s : State) : Except Refusal Instr :=
  match fetchBytes s with
  | .error e => .error e
  | .ok bytes =>
    match decode bytes with
    | .ok (i, _) => .ok i
    | .error (.notInScope w) => .error (.notInScope w)
    | .error .truncated => .error (.fetchUnwritten s.pc)

/-- The program counter rounded down to a multiple of 4. -/
def alignDown (a : Word) : Word := BitVec.ofNat 64 (4 * (a.toNat / 4))

/-- Places a word where the next step fetches, from outside the machine (log 30). -/
def placeWord (w : InstrWord) (s : State) : State :=
  { s with
    pc := alignDown s.pc
    mem := s.mem.writeList (alignDown s.pc).toNat (wordBytes w)
    slotStored := s.slotStored && !meetsSlot s.cfg (alignDown s.pc).toNat
    turns := [] }

end Sys2Proof.Machine
end

