-- ==== Sys2Proof/Machine/Turns.lean ====
section
/-! DEFINITION. Whose turn it is: the environment's events come between the PE's instructions, in the order the state's
list of turns gives (R137; log 18). -/

namespace Sys2Proof.Machine

/-- The PE's turn: it runs the instruction at the program counter, or fetching it is refused. -/
def runInstr (s : State) : Res :=
  match fetchInstr s with
  | .ok i => exec i s
  | .error e => .refused e

/-- Takes the next turn off the list.
When a Sync or another event comes is not in the spec (R63): the list says so, it is set from outside, and no step adds to
it (DESIGN CHOICE, log 18). -/
def takeTurn (s : State) : Res :=
  match s.turns with
  | .environment e :: rest => runEvent e { s with turns := rest }
  | .pe :: rest => runInstr { s with turns := rest }
  | [] => runInstr s

end Sys2Proof.Machine
end

