-- ==== Sys2Proof/Machine/Step.lean ====
section
/-! DEFINITION. One step: the environment's event, or the instruction at the program counter (R137; log 18). -/

namespace Sys2Proof.Machine

/-- One step of the machine (R11, R137): its next turn. When a Sync comes in a run is the model's choice (R63, log 18). -/
def step (s : State) : Host.Outcome State Fault Refusal := takeTurn s

/-- The state whose next step runs the instruction with table bits `w` (the host's interface; log 30). -/
def State.withFetchWord (s : State) (nbits w : Nat) : State := placeWord (tableWord nbits w) s

end Sys2Proof.Machine
end

