-- ==== Sys2Proof/Safety.lean ====
section
/-! DEFINITION. The terms claims are made in: the four forms by name and direction, what a fetch finds, the state
invariant, and which part of the state no form touches. -/

namespace Sys2Proof.Machine

/-- The form that names a register, in a direction. -/
def form : RegName → Direction → Nat → Instr
  | .sctlr2El2, .read, t => .mrsSctlr2El2 t
  | .sctlr2El2, .write, t => .msrSctlr2El2 t
  | .sctlr2El1, .read, t => .mrsSctlr2El1 t
  | .sctlr2El1, .write, t => .msrSctlr2El1 t

/-- The register and EL2 are implemented: what R87 to R90 presuppose (R86). -/
abbrev Present (s : State) : Prop := s.cfg.featSctlr2 = true ∧ s.cfg.haveEl2 = true

/-- EL3 has not closed the gate: `!(HaveEL(EL3) && SCR_EL3.SCTLR2En == 0)` (R91, R92). -/
abbrev GateOpen (s : State) : Prop := s.cfg.haveEl3 = false ∨ s.ctx.scrSctlr2En = true

/-- A form that names SCTLR2_EL2 reaches it: rows 6 and 7 of R91. -/
abbrev El2NameReaches (s : State) : Prop := s.ctx.el = .el3 ∨ (s.ctx.el = .el2 ∧ GateOpen s)

/-- Rows 2 to 7 of R92 do not apply to a form that names SCTLR2_EL1 at EL1: no trap control stops it. -/
abbrev El1Unstopped (d : Direction) (s : State) : Prop :=
  s.ctx.el = .el1 ∧ GateOpen s ∧
    (s.el2Enabled = true →
      vmTrap d s = false ∧
      (s.cfg.featFgt = false ∨ (s.cfg.haveEl3 = true ∧ s.ctx.scrFgtEn = false) ∨ fineGrainedBit d s = false) ∧
      s.ctx.hcrxEnabled = true ∧ s.ctx.hcrxSctlr2En = true)

/-- `EL2Enabled() && HCR_EL2.<NV2,NV1,NV> == '111'` (row 8 of R92). -/
abbrev NvRedirects (s : State) : Prop :=
  s.el2Enabled = true ∧ s.ctx.hcrNv2 = true ∧ s.ctx.hcrNv1 = true ∧ s.ctx.hcrNv = true

/-- A form that names SCTLR2_EL1 reaches SCTLR2_EL1: rows 9, 13 and 14 of R92. -/
abbrev El1NameReachesEl1 (d : Direction) (s : State) : Prop :=
  s.ctx.el = .el3 ∨ (s.ctx.el = .el2 ∧ GateOpen s ∧ s.ctx.hcrE2h = false) ∨ (El1Unstopped d s ∧ ¬NvRedirects s)

/-- The environment admits an access to the slot, and the slot is aligned (R51, R54, D8). -/
abbrev SlotAdmitted (s : State) : Prop := s.cfg.nvmemBase.toNat % 8 = 0 ∧ s.ctx.nvmemAdmitted = true

/-- No unsynchronized write by the other name concerns an access by `n`: the alias statement's precondition is false,
or the window holds no write by the other name (R62). -/
abbrev NoRace (n : RegName) (s : State) : Prop :=
  ¬(s.cfg.featVhe = true ∧ s.ctx.hcrE2h = true ∧ s.ctx.el = .el2) ∨
    ∀ p ∈ s.pendingAlias, p.writesBy (otherName n) = []

/-- The next turn is the PE's (R137; log 18). -/
abbrev PeTurn (s : State) : Prop := s.turns = [] ∨ s.turns.head? = some .pe

/-- The next turn is the environment's, with this event. -/
abbrev EventTurn (s : State) (e : Event) : Prop := s.turns.head? = some (.environment e)

/-- The state in which the next turn is taken: its own place in the list is gone. -/
def afterTurn (s : State) : State := { s with turns := s.turns.tail }

/-- The four bytes of `w` stand at the program counter, where a fetch finds them (R53, R54; log 16). -/
abbrev FetchesWord (s : State) (w : InstrWord) : Prop :=
  s.pc.toNat % 4 = 0 ∧ (s.slotStored = false ∨ meetsSlot s.cfg s.pc.toNat = false) ∧
    s.mem.read s.pc.toNat = some (w.extractLsb' 0 8) ∧ s.mem.read (s.pc.toNat + 1) = some (w.extractLsb' 8 8) ∧
    s.mem.read (s.pc.toNat + 2) = some (w.extractLsb' 16 8) ∧ s.mem.read (s.pc.toNat + 3) = some (w.extractLsb' 24 8)

/-- Applies a change to the next state of an outcome, if there is one. -/
def mapNext (f : State → State) : Res → Res
  | .next s => .next (f s)
  | .fault e => .fault e
  | .refused e => .refused e

/-- The events in which a field of SCTLR2_EL2 has its effect (R58, R112 to R122). -/
def Event.isEffect : Event → Bool
  | .realmAccess _ _ => true
  | .externalAbort _ _ => true
  | .syncExternalAbort _ _ => true
  | .takeSError _ _ => true
  | .access128 _ _ _ => true
  | .reset _ => false
  | .sync => false
  | .tlbInvalidate => false
  | .tlbFill _ => false
  | .setInputs _ => false
  | .setX _ _ => false
  | .setSctlr2El1 _ => false
  | .setPc _ => false
  | .slotStore _ => false
  | .raiseSError _ => false

/-- The same state with other stored values: the register's, and those the write-to-effect window remembers. -/
def withStored (v : Word) (old : List Word) (s : State) : State :=
  { s with sctlr2El2 := v, effectWindow := { s.effectWindow with oldStored := old } }

/-- What every step keeps.
`memory`: memory has its canonical form.
`stored`: the register holds no bit outside KeepMask (R32), nor do the values the windows remember (R42, R43).
`window`: an open alias window holds a write, and exists only with FEAT_VHE (R62). -/
structure Inv (s : State) : Prop where
  memory : s.mem.wf
  stored : Kept s.cfg s.sctlr2El2
  oldStored : ∀ v ∈ s.effectWindow.oldStored, Kept s.cfg v
  aliasKept : ∀ p ∈ s.pendingAlias, Kept s.cfg p.before ∧ ∀ v ∈ p.byEl2 ++ p.byEl1, Kept s.cfg v
  window : ∀ p ∈ s.pendingAlias, s.cfg.featVhe = true ∧ p.byEl2 ++ p.byEl1 ≠ []

/-- The part of the state no access form ever changes: the configuration, the inputs (PSTATE among them, R36), the TLB
copies, the pending SErrors, the Realm record and the coming turns. -/
def untouched (s : State) : Config × Ctx × List TlbEntry × List EL × Option RealmAccess × List Turn :=
  (s.cfg, s.ctx, s.tlbEmec, s.pendingSErrors, s.lastRealm, s.turns)

/-- A run of `k` steps that meets no fault and no refusal. -/
def SafeRun : Nat → State → Prop
  | 0, _ => True
  | k + 1, s => ∃ t, step s = .next t ∧ SafeRun k t

end Sys2Proof.Machine
end

