-- ==== Sys2Proof/Certificates/Slice0/Obligations.lean ====
section
/-! DEFINITION. The statements for the provers. Each docstring names the rule of spec/ it formalises; where a clause
rests on a choice of the spec or of the model, it says so. -/

open Sys2Proof Sys2Proof.Machine

/-! ### Encoding and fetch -/

/-- Words written out in 95_test_vectors.md section 2.1 decode to the forms they stand for.
The word layout is the spec's general knowledge (K13). -/
def Obligations.SpecWordsDecode : Prop :=
  decode [0x62#8, 0x10#8, 0x3C#8, 0xD5#8] = .ok (.mrsSctlr2El2 2, []) ∧
  decode [0x71#8, 0x10#8, 0x1C#8, 0xD5#8] = .ok (.msrSctlr2El2 17, []) ∧
  decode [0x63#8, 0x10#8, 0x38#8, 0xD5#8] = .ok (.mrsSctlr2El1 3, []) ∧
  decode [0x7F#8, 0x10#8, 0x18#8, 0xD5#8] = .ok (.msrSctlr2El1 31, []) ∧
  decode [0x40#8, 0x10#8, 0x3C#8, 0xD5#8] = .error (.notInScope 0xD53C1040#32)

/-- Decoding the bytes of any well-formed instruction gives it back, whatever follows: the encoder is written from R71
to R73, the decoder from the match and mask columns of R74. -/
def Obligations.DecodeOfEncode : Prop :=
  ∀ (i : Instr) (rest : List Byte), i.WellFormed → decode (encodeBytes i ++ rest) = .ok (i, rest)

/-- A word decodes to an instruction exactly when it is that instruction's encoding: no word has two meanings, and no
bit of a decoded word is ignored (R74). -/
def Obligations.DecodedWordsAreEncodings : Prop :=
  ∀ (w : InstrWord) (i : Instr), decodeWord w = some i ↔ i.WellFormed ∧ encode i = w

/-- R77: a word that matches no row of R74 is NotInScope to the decoder, whatever follows, and a machine that fetches it
in the PE's turn refuses it. -/
def Obligations.UnmatchedWordsRefused : Prop :=
  ∀ w : InstrWord,
    (w &&& 0xFFFFFFE0#32 ≠ 0xD53C1060#32 ∧ w &&& 0xFFFFFFE0#32 ≠ 0xD51C1060#32 ∧
      w &&& 0xFFFFFFE0#32 ≠ 0xD5381060#32 ∧ w &&& 0xFFFFFFE0#32 ≠ 0xD5181060#32) →
    (∀ rest, decode (wordBytes w ++ rest) = .error (.notInScope w)) ∧
    ∀ s : State, PeTurn s → FetchesWord s w → step s = .refused (.notInScope w)

/-- A step runs the decoded instruction: in the PE's turn, step at a state whose fetched word is the encoding of a
well-formed instruction is exec of it, its turn taken off the list, which for an empty list is the state itself; in a
turn of the environment the event is taken, and no instruction runs in that step (R137).
The list of turns is the model's, set from outside (log 18). -/
def Obligations.StepRunsDecodedInstruction : Prop :=
  (∀ (s : State) (i : Instr), i.WellFormed → PeTurn s → FetchesWord s (encode i) →
    step s = exec i { s with turns := s.turns.tail }) ∧
  (∀ (s : State) (i : Instr), i.WellFormed → s.turns = [] → FetchesWord s (encode i) → step s = exec i s) ∧
  ∀ (s : State) (e : Event) (ts : List Turn), s.turns = .environment e :: ts →
    step s = runEvent e { s with turns := ts }

/-- A word placed from outside is the one the very next step fetches, in every state (log 30). -/
def Obligations.PlacedWordRuns : Prop :=
  ∀ (s : State) (w : Nat) (i : Instr), decodeTableWord 32 w = some i →
    step (s.withFetchWord 32 w) = exec i (s.withFetchWord 32 w) ∧
    (∀ r, (s.withFetchWord 32 w).readX r = s.readX r) ∧
    (s.pc.toNat % 4 = 0 → (s.withFetchWord 32 w).pc = s.pc)

/-- In the PE's turn, a fetch at an address that is no multiple of 4 is refused (R54, the spec's decision D16). -/
def Obligations.MisalignedFetchRefused : Prop :=
  ∀ s : State, PeTurn s → s.pc.toNat % 4 ≠ 0 → step s = .refused (.misalignedFetch s.pc)

/-! ### The general registers -/

/-- Register 31 reads 0 and discards what is written (the spec's general knowledge in R34, D10); X0 to X30 hold what is
written and leave each other alone. -/
def Obligations.GeneralRegisterLaws : Prop :=
  ∀ (s : State) (v : Word),
    s.readX 31 = 0#64 ∧ s.writeX 31 v = s ∧
    ∀ t < 31, (s.writeX t v).readX t = v ∧ ∀ r, r ≠ t → (s.writeX t v).readX r = s.readX r

/-! ### Presence -/

/-- R2: without FEAT_SCTLR2, both forms that name SCTLR2_EL2 are UNDEFINED in every state. -/
def Obligations.AbsentRegisterUndefined : Prop :=
  ∀ (s : State) (d : Direction) (t : Nat), s.cfg.featSctlr2 = false →
    exec (form .sctlr2El2 d t) s = .fault (.undefined (encode (form .sctlr2El2 d t)))

/-- The presence gate of all four forms: without FEAT_SCTLR2 each is UNDEFINED before any other test; with it but
without EL2 the model refuses (R86; the spec's decisions D15 and D23). -/
def Obligations.PresenceGateOfAllForms : Prop :=
  ∀ (i : Instr) (s : State),
    (s.cfg.featSctlr2 = false → exec i s = .fault (.undefined (encode i))) ∧
    (s.cfg.featSctlr2 = true → s.cfg.haveEl2 = false → exec i s = .refused (.el2NotImplemented (encode i)))

/-! ### The forms that name SCTLR2_EL2 -/

/-- The stopping rows of R91 for both forms that name SCTLR2_EL2: rows 1 to 5. -/
def Obligations.El2NameStopTable : Prop :=
  ∀ (s : State) (d : Direction) (t : Nat), Present s →
    let i := form .sctlr2El2 d t
    let w := encode i
    (s.ctx.el = .el0 → exec i s = .fault (.undefined w)) ∧
    (s.ctx.el = .el1 → s.el2Enabled = true → s.ctx.hcrNv = true → exec i s = .fault (.sysTrap .el2 0x18#6 w)) ∧
    (s.ctx.el = .el1 → ¬(s.el2Enabled = true ∧ s.ctx.hcrNv = true) → exec i s = .fault (.undefined w)) ∧
    (s.ctx.el = .el2 → ¬GateOpen s → s.ctx.halted = true → s.ctx.edscrSdd = true →
      exec i s = .fault (.undefined w)) ∧
    (s.ctx.el = .el2 → ¬GateOpen s → ¬(s.ctx.halted = true ∧ s.ctx.edscrSdd = true) →
      exec i s = .fault (.sysTrap .el3 0x18#6 w))

/-- `MRS <Xt>, SCTLR2_EL2` completes at EL3, and at EL2 with the gate open: Xt receives the stored value, not an
effective one (R32, R87), register 31 discarding it, and nothing else changes but the program counter (R35).
The case of a racing write by the other name is AliasOrdering. -/
def Obligations.ReadByEl2NameCompletes : Prop :=
  ∀ (s : State) (t : Nat), t < 32 → Present s → El2NameReaches s → NoRace .sctlr2El2 s →
    exec (.mrsSctlr2El2 t) s = .next { s.writeX t s.sctlr2El2 with pc := s.pc + 4#64 }

/-- `MSR SCTLR2_EL2, <Xt>` completes at EL3, and at EL2 with the gate open: the register receives Xt through KeepMask
(R29, R88), the replaced value joins the write-to-effect window (R43), the alias window opens or grows exactly under
FEAT_VHE and E2H at EL2 (R42), and nothing else changes but the program counter.
That one window holds all unsynchronized writes is the model's reading of R62 (log 10). -/
def Obligations.WriteByEl2NameCompletes : Prop :=
  ∀ (s : State) (t : Nat), t < 32 → Present s → El2NameReaches s → NoRace .sctlr2El2 s →
    let v := s.readX t &&& keepMask s.cfg
    exec (.msrSctlr2El2 t) s = .next { s with
      sctlr2El2 := v
      effectWindow := { s.effectWindow with oldStored := s.sctlr2El2 :: s.effectWindow.oldStored }
      pendingAlias :=
        if s.cfg.featVhe = true ∧ s.ctx.hcrE2h = true ∧ s.ctx.el = .el2 then
          match s.pendingAlias with
          | none => some ⟨s.sctlr2El2, [v], []⟩
          | some p => some { p with byEl2 := v :: p.byEl2 }
        else s.pendingAlias
      pc := s.pc + 4#64 }

/-- A write by the name SCTLR2_EL2 and then a read by it gives back the filtered value, in every state where the write
completes without a race, whatever the control bits are (R29, R32; P1 of 95_test_vectors.md). -/
def Obligations.WriteThenReadGivesFiltered : Prop :=
  ∀ (s : State) (t r : Nat), t < 32 → r < 31 → Present s → El2NameReaches s → NoRace .sctlr2El2 s →
    ∃ u v, exec (.msrSctlr2El2 t) s = .next u ∧ exec (.mrsSctlr2El2 r) u = .next v ∧
      v.readX r = s.readX t &&& keepMask s.cfg ∧ v.sctlr2El2 = s.readX t &&& keepMask s.cfg ∧
      v.pc = s.pc + 8#64 ∧ ∀ q, q ≠ r → v.readX q = s.readX q

/-- Each implemented field stores exactly the bit written, the bit of a field that is not implemented and is not a
storing RES0 bit reads 0 afterwards, and writing the zero register clears the register (R22 to R29, R88).
The positions rest on LOW_RES0_WIDTH (D1), left open here within 1 to 25. -/
def Obligations.WriteStoresEachField : Prop :=
  ∀ (s : State) (t : Nat), t < 32 → Present s → ConfigWf s.cfg → El2NameReaches s → NoRace .sctlr2El2 s →
    ∃ u, exec (.msrSctlr2El2 t) s = .next u ∧
      (∀ f, implemented s.cfg f = true → fieldBit s.cfg u.sctlr2El2 f = fieldBit s.cfg (s.readX t) f) ∧
      (∀ f, implemented s.cfg f = false → s.cfg.res0StorageMask.getLsbD (fieldPos s.cfg f) = false →
        fieldBit s.cfg u.sctlr2El2 f = false) ∧
      (t = 31 → u.sctlr2El2 = 0#64)

/-! ### The forms that name SCTLR2_EL1 -/

/-- The stopping rows of R92 for both forms that name SCTLR2_EL1: rows 1 to 7, 10 and 11, each with the rows above it
excluded. -/
def Obligations.El1NameStopTable : Prop :=
  ∀ (s : State) (d : Direction) (t : Nat), Present s →
    let i := form .sctlr2El1 d t
    let w := encode i
    let early := s.ctx.halted && s.cfg.haveEl3 && s.ctx.edscrSdd && s.cfg.el3TrapPriorityWhenSdd && !s.ctx.scrSctlr2En
    let fgt := s.cfg.featFgt && (!s.cfg.haveEl3 || s.ctx.scrFgtEn) && fineGrainedBit d s
    let trapped := s.el2Enabled && (vmTrap d s || fgt || !s.ctx.hcrxEnabled || !s.ctx.hcrxSctlr2En)
    (s.ctx.el = .el0 → exec i s = .fault (.undefined w)) ∧
    (s.ctx.el = .el1 → early = true → exec i s = .fault (.undefined w)) ∧
    (s.ctx.el = .el1 → early = false → trapped = true → exec i s = .fault (.sysTrap .el2 0x18#6 w)) ∧
    (s.ctx.el = .el1 → early = false → trapped = false → ¬GateOpen s →
      s.ctx.halted = true → s.ctx.edscrSdd = true → exec i s = .fault (.undefined w)) ∧
    (s.ctx.el = .el1 → early = false → trapped = false → ¬GateOpen s →
      ¬(s.ctx.halted = true ∧ s.ctx.edscrSdd = true) → exec i s = .fault (.sysTrap .el3 0x18#6 w)) ∧
    (s.ctx.el = .el2 → ¬GateOpen s → s.ctx.halted = true → s.ctx.edscrSdd = true →
      exec i s = .fault (.undefined w)) ∧
    (s.ctx.el = .el2 → ¬GateOpen s → ¬(s.ctx.halted = true ∧ s.ctx.edscrSdd = true) →
      exec i s = .fault (.sysTrap .el3 0x18#6 w))

/-- Row 12 of R92, read: at EL2 with E2H the name SCTLR2_EL1 reads SCTLR2_EL2 (R89). -/
def Obligations.ReadByEl1NameReachesSctlr2El2 : Prop :=
  ∀ (s : State) (t : Nat), t < 32 → Present s → s.ctx.el = .el2 → GateOpen s → s.ctx.hcrE2h = true →
    NoRace .sctlr2El1 s →
    exec (.mrsSctlr2El1 t) s = .next { s.writeX t s.sctlr2El2 with pc := s.pc + 4#64 }

/-- Row 12 of R92, write: at EL2 with E2H the name SCTLR2_EL1 writes SCTLR2_EL2 through KeepMask and leaves SCTLR2_EL1
alone (R90); with FEAT_VHE the alias window opens or grows (R42; log 10). -/
def Obligations.WriteByEl1NameReachesSctlr2El2 : Prop :=
  ∀ (s : State) (t : Nat), t < 32 → Present s → s.ctx.el = .el2 → GateOpen s → s.ctx.hcrE2h = true →
    NoRace .sctlr2El1 s →
    let v := s.readX t &&& keepMask s.cfg
    exec (.msrSctlr2El1 t) s = .next { s with
      sctlr2El2 := v
      effectWindow := { s.effectWindow with oldStored := s.sctlr2El2 :: s.effectWindow.oldStored }
      pendingAlias :=
        if s.cfg.featVhe = true then
          match s.pendingAlias with
          | none => some ⟨s.sctlr2El2, [], [v]⟩
          | some p => some { p with byEl1 := v :: p.byEl1 }
        else s.pendingAlias
      pc := s.pc + 4#64 }

/-- Rows 9, 13 and 14 of R92: where nothing stops or redirects it, the name SCTLR2_EL1 reads SCTLR2_EL1, or writes it
through WriteFilterEL1, and nothing else changes but the program counter (R37, R89, R90). -/
def Obligations.El1NameReachesSctlr2El1 : Prop :=
  ∀ (s : State) (t : Nat), t < 32 → Present s →
    (El1NameReachesEl1 .read s →
      exec (.mrsSctlr2El1 t) s = .next { s.writeX t s.sctlr2El1 with pc := s.pc + 4#64 }) ∧
    (El1NameReachesEl1 .write s →
      exec (.msrSctlr2El1 t) s =
        .next { s with sctlr2El1 := Config.writeFilterEl1 (s.readX t), pc := s.pc + 4#64 })

/-- Row 8 of R92, read: at EL1 under HCR_EL2.<NV2,NV1,NV> = '111' the form reads the eight bytes at NVMEM_BASE + 0x278
in the order NVMEM_BYTE_ORDER, where they have been written, and changes nothing but Xt and the program counter; every
byte of memory reads as before (R51, R53, R89).
That a slot read leaves memory as it is, is the model's choice (R55 is silent on it; log 15). -/
def Obligations.SlotReadCompletes : Prop :=
  ∀ (s : State) (t : Nat) (b : Fin 8 → Byte), t < 32 → Present s → El1Unstopped .read s → NvRedirects s →
    SlotAdmitted s → (∀ k : Fin 8, s.mem.read ((s.cfg.nvmemBase + 0x278#64).toNat + k) = some (b k)) →
    let v : Word :=
      match s.cfg.nvmemByteOrder with
      | .little => b 7 ++ b 6 ++ b 5 ++ b 4 ++ b 3 ++ b 2 ++ b 1 ++ b 0
      | .big => b 0 ++ b 1 ++ b 2 ++ b 3 ++ b 4 ++ b 5 ++ b 6 ++ b 7
    exec (.mrsSctlr2El1 t) s = .next { s.writeX t v with pc := s.pc + 4#64 }

/-- Row 8 of R92, write: the form stores all 64 bits of Xt, unfiltered, in the eight bytes at NVMEM_BASE + 0x278 in the
order NVMEM_BYTE_ORDER; every other byte of memory and every register reads as before (R51, R53, R90). -/
def Obligations.SlotWriteCompletes : Prop :=
  ∀ (s : State) (t : Nat), t < 32 → Present s → El1Unstopped .write s → NvRedirects s → SlotAdmitted s →
    ∃ u, exec (.msrSctlr2El1 t) s = .next u ∧
      (∀ k : Fin 8, u.mem.read ((s.cfg.nvmemBase + 0x278#64).toNat + k) =
        some ((s.readX t).extractLsb' (8 * (match s.cfg.nvmemByteOrder with | .little => k.val | .big => 7 - k.val)) 8)) ∧
      (∀ a, a < (s.cfg.nvmemBase + 0x278#64).toNat ∨ (s.cfg.nvmemBase + 0x278#64).toNat + 8 ≤ a →
        u.mem.read a = s.mem.read a) ∧
      u = { s with mem := u.mem, slotStored := true, pc := s.pc + 4#64 }

/-- A value stored through the slot is what the slot reads back, for either byte order and whatever stood in memory
(R51, R53, R55; P4 of 95_test_vectors.md); that the read leaves memory as it is, is the model's choice (log 15). -/
def Obligations.SlotReadsBackWhatWasStored : Prop :=
  ∀ (s : State) (t r : Nat), t < 32 → r < 31 → Present s → El1Unstopped .write s → El1Unstopped .read s →
    NvRedirects s → SlotAdmitted s →
    ∃ u v, exec (.msrSctlr2El1 t) s = .next u ∧ exec (.mrsSctlr2El1 r) u = .next v ∧
      v.readX r = s.readX t ∧ v.sctlr2El1 = s.sctlr2El1 ∧ v.sctlr2El2 = s.sctlr2El2 ∧ v.mem = u.mem

/-- A slot byte that nothing has written does not stop the read: the form completes with some value and changes nothing
but Xt, the program counter and the draw counter (R55; the free value is the model's, log 15). -/
def Obligations.UnwrittenSlotStillReads : Prop :=
  ∀ (s : State) (t : Nat), t < 32 → Present s → El1Unstopped .read s → NvRedirects s → SlotAdmitted s →
    ∃ v n, exec (.mrsSctlr2El1 t) s = .next { s.writeX t v with pc := s.pc + 4#64, draws := n }

/-- Where row 8 of R92 applies and the slot is misaligned or not admitted, both forms are refused by name (R51, R54, the
spec's decision D8). -/
def Obligations.SlotRefusals : Prop :=
  ∀ (s : State) (d : Direction) (t : Nat), Present s → El1Unstopped d s → NvRedirects s →
    (s.cfg.nvmemBase.toNat % 8 ≠ 0 → exec (form .sctlr2El1 d t) s = .refused .nvmemMisaligned) ∧
    (s.cfg.nvmemBase.toNat % 8 = 0 → s.ctx.nvmemAdmitted = false →
      exec (form .sctlr2El1 d t) s = .refused .nvmemNotAdmitted)

/-! ### All four forms -/

/-- The frame of the two read forms: when one completes, every general register but Xt, both SCTLR2 registers, the
windows, every byte of memory and everything a form never touches are as before (R34, R87, R89; for the slot, log 15). -/
def Obligations.ReadFormsFrame : Prop :=
  ∀ (s u : State) (n : RegName) (t : Nat), exec (form n .read t) s = .next u →
    untouched u = untouched s ∧ u.pc = s.pc + 4#64 ∧ (∀ r, r ≠ t → u.readX r = s.readX r) ∧
    u.sctlr2El2 = s.sctlr2El2 ∧ u.sctlr2El1 = s.sctlr2El1 ∧ u.pendingAlias = s.pendingAlias ∧
    u.effectWindow = s.effectWindow ∧ (∀ a, u.mem.read a = s.mem.read a) ∧ u.slotStored = s.slotStored

/-- The frame of the two write forms: when one completes, every general register and everything a form never touches is
as before, and it wrote exactly one of three things: SCTLR2_EL2 with its windows and the draw counter, SCTLR2_EL1, or the
slot, outside which every byte of memory reads as before (R34, R88, R90). -/
def Obligations.WriteFormsFrame : Prop :=
  ∀ (s u : State) (n : RegName) (t : Nat), exec (form n .write t) s = .next u →
    untouched u = untouched s ∧ u.pc = s.pc + 4#64 ∧ (∀ r, u.readX r = s.readX r) ∧
    (∀ a, a < slotAddr s.cfg ∨ slotAddr s.cfg + 8 ≤ a → u.mem.read a = s.mem.read a) ∧
    (u = { s with
        sctlr2El2 := u.sctlr2El2, pendingAlias := u.pendingAlias, effectWindow := u.effectWindow
        draws := u.draws, pc := u.pc } ∨
     u = { s with sctlr2El1 := u.sctlr2El1, pc := u.pc } ∨
     u = { s with mem := u.mem, slotStored := true, pc := u.pc })

/-- R50: only the forms that name SCTLR2_EL1, at EL1, touch memory. Every other form leaves it as it is and behaves the
same whatever it holds; a read form depends on no byte but the slot's eight, a write form on none; a form that
changes memory is a write and changes only the slot's eight bytes.
The last clause is the model's, not R50's: no event changes memory but a store to the slot by the environment, which owns
it (R52), and that changes only the slot's eight bytes; that other memory changes by no event is log 18's choice, and that a
Reset keeps memory is log 24's.
The slot's address is the spec's decision D8 (R51; log 17), its width of 64 bits the model's choice (R40; log 36). -/
def Obligations.OnlyTheSlotIsAccessed : Prop :=
  (∀ (s : State) (n : RegName) (d : Direction) (t : Nat) (m : Memory), (n = .sctlr2El2 ∨ s.ctx.el ≠ .el1) →
    exec (form n d t) { s with mem := m } = mapNext (fun u => { u with mem := m }) (exec (form n d t) s) ∧
    ∀ u, exec (form n d t) s = .next u → u.mem = s.mem) ∧
  (∀ (s : State) (n : RegName) (t : Nat) (m : Memory),
    (∀ k < 8, m.read (slotAddr s.cfg + k) = s.mem.read (slotAddr s.cfg + k)) →
    exec (form n .read t) { s with mem := m } = mapNext (fun u => { u with mem := m }) (exec (form n .read t) s)) ∧
  (∀ (s : State) (n : RegName) (t : Nat) (m : Memory),
    mapNext (fun u => { u with mem := [] }) (exec (form n .write t) { s with mem := m }) =
      mapNext (fun u => { u with mem := [] }) (exec (form n .write t) s)) ∧
  (∀ (s u : State) (n : RegName) (d : Direction) (t : Nat), exec (form n d t) s = .next u →
    ∀ a, u.mem.read a ≠ s.mem.read a →
      n = .sctlr2El1 ∧ d = .write ∧ s.ctx.el = .el1 ∧ slotAddr s.cfg ≤ a ∧ a < slotAddr s.cfg + 8) ∧
  ∀ (s u : State) (e : Event), runEvent e s = .next u →
    ((∀ v, e ≠ .slotStore v) → u.mem = s.mem) ∧
    ∀ a, u.mem.read a ≠ s.mem.read a → slotAddr s.cfg ≤ a ∧ a < slotAddr s.cfg + 8

/-- Every trap of a form has class 0x18 and the form's own word, and goes to a higher Exception level than it was
executed at: to EL2 from EL1, to EL3 from EL1 or EL2 (R106). -/
def Obligations.TrapsGoUp : Prop :=
  ∀ (s : State) (i : Instr) (target : EL) (ec : BitVec 6) (w : InstrWord),
    exec i s = .fault (.sysTrap target ec w) →
    ec = 0x18#6 ∧ w = encode i ∧
      ((target = .el2 ∧ s.ctx.el = .el1) ∨ (target = .el3 ∧ (s.ctx.el = .el1 ∨ s.ctx.el = .el2)))

/-- The least Exception level at which a form completes: EL2 by the name SCTLR2_EL2, EL1 by the name SCTLR2_EL1; and
only with the register and EL2 present (R97, R86). No form completes below, and each does complete there, also in an
alias window, wherever EL3's gate is open and, at EL1, no control of EL2 stops it and the slot, if it is redirected to
it, is admitted. -/
def Obligations.LeastLevelOfEachName : Prop :=
  (∀ (s u : State) (n : RegName) (d : Direction) (t : Nat), exec (form n d t) s = .next u →
    Present s ∧ s.ctx.el ≠ .el0 ∧ (n = .sctlr2El2 → s.ctx.el ≠ .el1)) ∧
  (∀ (s : State) (d : Direction) (t : Nat), Present s → s.ctx.el = .el2 → GateOpen s →
    ∃ u, exec (form .sctlr2El2 d t) s = .next u) ∧
  ∀ (s : State) (d : Direction) (t : Nat), Present s → El1Unstopped d s → (NvRedirects s → SlotAdmitted s) →
    ∃ u, exec (form .sctlr2El1 d t) s = .next u

/-- At EL2 no form can tell the value of EL3_TRAP_PRIORITY_WHEN_SDD: changing it changes nothing but itself (R93). -/
def Obligations.TrapPriorityUnseenAtEl2 : Prop :=
  ∀ (s : State) (i : Instr) (b : Bool), s.ctx.el = .el2 →
    exec i { s with cfg := { s.cfg with el3TrapPriorityWhenSdd := b } } =
      mapNext (fun u => { u with cfg := { u.cfg with el3TrapPriorityWhenSdd := b } }) (exec i s)

/-- At EL1, halted with SDD set and the gate closed, a trap control of EL2 and EL3_TRAP_PRIORITY_WHEN_SDD decide between
them whether a form by the name SCTLR2_EL1 is UNDEFINED or trapped to EL2 (R93; B13 and B14 of 95_test_vectors.md). -/
def Obligations.TrapPriorityDecidesAtEl1 : Prop :=
  ∀ (s : State) (d : Direction) (t : Nat), Present s → s.ctx.el = .el1 → s.ctx.halted = true →
    s.cfg.haveEl3 = true → s.ctx.edscrSdd = true → s.ctx.scrSctlr2En = false → s.el2Enabled = true →
    vmTrap d s = true →
    exec (form .sctlr2El1 d t) s =
      .fault (if s.cfg.el3TrapPriorityWhenSdd then .undefined (encode (form .sctlr2El1 d t))
        else .sysTrap .el2 0x18#6 (encode (form .sctlr2El1 d t)))

/-- What a SysTrap of class 0x18 records, as the spec's general knowledge has it (R107, K15): the syndrome of the forms,
the return address of the trapped instruction, and for EL2 the synchronous vector for a lower level in AArch64. And what
UNDEFINED records (R105, K14): nothing in Debug state, else class 0 and the level it is taken to, with, for EL2, the
synchronous vector of VBAR_EL2 (R127) for a lower level from EL0, and for the same level and the stack pointer in use from
EL2 (R116, K16). The records are the model's, beside the machine (log 27). -/
def Obligations.TrapSyndrome : Prop :=
  (∀ (s : State) (sp : StackPointer) (w : InstrWord),
    (s.ctx.halted = true → entryRecord s sp (.undefined w) = none) ∧
    (s.ctx.halted = false → entryRecord s sp (.undefined w) = some {
      target := match s.ctx.el with
        | .el0 => if s.ctx.hcrTge then .el2 else .el1
        | .el1 => .el1
        | .el2 => .el2
        | .el3 => .el3
      ec := 0x00#6
      iss := none
      returnAddress := s.pc
      vector := match s.ctx.el with
        | .el0 => if s.ctx.hcrTge then some (s.ctx.vbarEl2 + 0x400#64) else none
        | .el1 => none
        | .el2 => some (s.ctx.vbarEl2 + match sp with | .sp0 => 0x000#64 | .spx => 0x200#64)
        | .el3 => none })) ∧
  ∀ (s : State) (sp : StackPointer) (n : RegName) (d : Direction) (t : Nat) (target : EL), t < 32 →
    entryRecord s sp (.sysTrap target 0x18#6 (encode (form n d t))) = some {
      target := target
      ec := 0x18#6
      iss := some (BitVec.ofNat 25 (3 * 2 ^ 20 + 3 * 2 ^ 17 + (match n with | .sctlr2El2 => 4 | .sctlr2El1 => 0) * 2 ^ 14
        + 2 ^ 10 + t * 2 ^ 5 + (match d with | .read => 1 | .write => 0)))
      returnAddress := s.pc
      vector := if target = .el2 then some (s.ctx.vbarEl2 + 0x400#64) else none }

/-! ### Ordering of the two names -/

/-- R62 for one unsynchronized write. Under FEAT_VHE, E2H and EL2: a write by name `A` of `v` over the stored value `u`
stores `v` filtered and opens the window with `u`; in that window a read by `A` returns the stored value, a read by the
other name `B` returns `u` or the stored value, a write by `B` leaves its own filtered value or `A`'s, and a Sync empties
the window. The value the first write replaced joins the write-to-effect window (R43, the spec's decision D12). -/
def Obligations.AliasOrdering : Prop :=
  ∀ (s : State) (a : RegName) (t : Nat), t < 32 → Present s → GateOpen s →
    s.cfg.featVhe = true → s.ctx.hcrE2h = true → s.ctx.el = .el2 →
    let b := otherName a
    let v := s.readX t &&& keepMask s.cfg
    (s.pendingAlias = none →
      ∃ p, exec (form a .write t) s = .next { s with
          sctlr2El2 := v, pendingAlias := some p, pc := s.pc + 4#64
          effectWindow := { s.effectWindow with oldStored := s.sctlr2El2 :: s.effectWindow.oldStored } } ∧
        p.before = s.sctlr2El2 ∧ p.writesBy a = [v] ∧ p.writesBy b = []) ∧
    (∀ p, s.pendingAlias = some p → p.writesBy a = [s.sctlr2El2] → p.writesBy b = [] →
      exec (form a .read t) s = .next { s.writeX t s.sctlr2El2 with pc := s.pc + 4#64 } ∧
      (∃ w n, exec (form b .read t) s = .next { s.writeX t w with pc := s.pc + 4#64, draws := n } ∧
        (w = p.before ∨ w = s.sctlr2El2)) ∧
      (∃ u, exec (form b .write t) s = .next u ∧ (u.sctlr2El2 = v ∨ u.sctlr2El2 = s.sctlr2El2)) ∧
      runEvent .sync s = .next { s with pendingAlias := none, effectWindow := ⟨[], []⟩ })

/-- In any window that holds writes by the other name, every form still completes: a read gives the stored value, the
reader's own latest write (or the value before the window, if it has none) or a write by the other name; a write leaves
its own filtered value or the other name's latest.
That R62 applies pairwise to longer windows in this way is the model's reading (log 10), and so is that the racing write
puts into the write-to-effect window (R43) both the value it replaced and its own filtered value, which may have been stored
in between (log 12). -/
def Obligations.RacesComplete : Prop :=
  ∀ (s : State) (n : RegName) (t : Nat) (p : PendingAlias), t < 32 → Present s → GateOpen s →
    s.cfg.featVhe = true → s.ctx.hcrE2h = true → s.ctx.el = .el2 → s.pendingAlias = some p →
    p.writesBy (otherName n) ≠ [] →
    (∃ v k, exec (form n .read t) s = .next { s.writeX t v with pc := s.pc + 4#64, draws := k } ∧
      (v = s.sctlr2El2 ∨ v = (p.writesBy n).headD p.before ∨ v ∈ p.writesBy (otherName n))) ∧
    (∃ v k q, exec (form n .write t) s = .next { s with
        sctlr2El2 := v, pendingAlias := some q, pc := s.pc + 4#64, draws := k
        effectWindow := { s.effectWindow with
          oldStored := (s.readX t &&& keepMask s.cfg) :: s.sctlr2El2 :: s.effectWindow.oldStored } } ∧
      (v = s.readX t &&& keepMask s.cfg ∨ (p.writesBy (otherName n)).head? = some v) ∧
      q.before = p.before ∧ q.writesBy n = (s.readX t &&& keepMask s.cfg) :: p.writesBy n ∧
      q.writesBy (otherName n) = p.writesBy (otherName n))

/-! ### Effective values -/

/-- With the write-to-effect window closed, `Eff.f` is 0 for every field whenever EL3 is implemented and
SCR_EL3.SCTLR2En is 0, whatever is stored; otherwise it is the stored bit for the four fields without a FORCE_ONE
condition, and for EnANERR and EnADERR 1 under that condition, else the stored bit (R30; the guard HaveEL(EL3) is the
spec's decision D5, the conditions are open, D6). -/
def Obligations.EffectiveValues : Prop :=
  ∀ s : State, s.effectWindow = ⟨[], []⟩ →
    (¬GateOpen s → ∀ f, effSeen s f = false) ∧
    (GateOpen s →
      (∀ f, f ≠ .enAnerr → f ≠ .enAderr → effSeen s f = s.sctlr2El2.getLsbD (fieldPos s.cfg f)) ∧
      effSeen s .enAnerr =
        (Config.forceOneEnAnerr s.cfg s.inputs || s.sctlr2El2.getLsbD (fieldPos s.cfg .enAnerr)) ∧
      effSeen s .enAderr =
        (Config.forceOneEnAderr s.cfg s.inputs || s.sctlr2El2.getLsbD (fieldPos s.cfg .enAderr)))

/-- Inside the window one use of a field sees R30 computed from a stored value and a SCR_EL3.SCTLR2En each current or
replaced since the last Sync (R43, R149, the spec's decision D12); after a Sync only the current ones. -/
def Obligations.WindowUsesOldOrNew : Prop :=
  ∀ (s : State) (f : ControlField),
    (∃ v ∈ s.sctlr2El2 :: s.effectWindow.oldStored, ∃ en ∈ s.ctx.scrSctlr2En :: s.effectWindow.oldSctlr2En,
      effSeen s f = eff s.cfg { s.inputs with ctx := { s.ctx with scrSctlr2En := en } } v f) ∧
    ∃ u, runEvent .sync s = .next u ∧ effSeen u f = eff s.cfg s.inputs s.sctlr2El2 f ∧ u.ctx = s.ctx ∧
      u.sctlr2El2 = s.sctlr2El2

/-- No RES0 bit has any effect, the bit of a field that is not implemented among them (R28): stored values that agree on
the implemented fields have the same effective values of them; and two states that differ in the other bits of the
stored values alone, of the register and of the write-to-effect window, meet every effect event, a TLB fill and a new
SError in the same way and still differ in those alone. -/
def Obligations.Res0BitsHaveNoEffect : Prop :=
  (∀ (cfg : Config) (i : Inputs) (v w : Word) (f : ControlField), implemented cfg f = true →
    v &&& funcMask cfg = w &&& funcMask cfg → eff cfg i v f = eff cfg i w f) ∧
  ∀ (s : State) (v : Word) (old : List Word) (e : Event),
    v &&& funcMask s.cfg = s.sctlr2El2 &&& funcMask s.cfg →
    old.map (· &&& funcMask s.cfg) = s.effectWindow.oldStored.map (· &&& funcMask s.cfg) →
    (e.isEffect = true ∨ (∃ k, e = .tlbFill k) ∨ ∃ t, e = .raiseSError t) →
    runEvent e (withStored v old s) = mapNext (withStored v old) (runEvent e s)

/-- A change of SCR_EL3.SCTLR2En that the environment makes stays open until the next Sync: it puts the old value into
the write-to-effect window (R149, the spec's decision D12), and a Sync empties that and the alias window (R63).
That every step other than a Sync or a Reset keeps every replaced value of the write-to-effect window is the model's (log
12), and so is that it keeps the first old value and every write of the alias window, also when E2H or the Exception level
changes (log 10; R62 read literally replaces the old value at each write). No step but TlbInvalidate, Reset or a fill of
the same translation drops a TLB copy (R66; the entries are the model's, log 14). -/
def Obligations.Sctlr2EnChangeOpensWindow : Prop :=
  (∀ (s : State) (c : Ctx), c.scrSctlr2En ≠ s.ctx.scrSctlr2En →
    ∃ u v, runEvent (.setInputs c) s = .next u ∧ u.ctx = c ∧ u.effectWindow.oldSctlr2En.head? = some s.ctx.scrSctlr2En ∧
      u.sctlr2El2 = s.sctlr2El2 ∧ runEvent .sync u = .next v ∧ v.effectWindow = ⟨[], []⟩ ∧ v.pendingAlias = none ∧
      v.ctx = c) ∧
  ∀ s u : State, step s = .next u → (∀ r, ¬EventTurn s (.reset r)) →
    (¬EventTurn s .sync →
      s.effectWindow.oldStored <:+ u.effectWindow.oldStored ∧ s.effectWindow.oldSctlr2En <:+ u.effectWindow.oldSctlr2En ∧
      ∀ p ∈ s.pendingAlias, ∃ q ∈ u.pendingAlias, q.before = p.before ∧ p.byEl2 <:+ q.byEl2 ∧ p.byEl1 <:+ q.byEl1) ∧
    (¬EventTurn s .tlbInvalidate → ∀ c ∈ s.tlbEmec, ¬EventTurn s (.tlbFill c.translation) → c ∈ u.tlbEmec)

/-! ### What the fields do -/

/-- EnIDCP128 (R112): with the guard, at EL0 under AppliesAtEL0, an access to a 128-bit register with no higher-priority
exception is trapped to EL2 with class 0x14 when the effective value seen is 0, so whenever EL3 has closed the gate and
no window is open; when it is 1 this control does not trap it, and with a higher-priority exception it does not either,
where the model refuses by name (log 23). The EL0 reach is the spec's decision D20. -/
def Obligations.EnIdcp128Trap : Prop :=
  ∀ (s : State) (r : SysReg) (w : InstrWord), s.cfg.featSctlr2 = true → s.cfg.implEnIdcp128 = true →
    s.el2Enabled = true → s.ctx.el = .el0 → s.cfg.featVhe = true → s.ctx.hcrE2h = true → s.ctx.hcrTge = true →
    r ∈ s.cfg.impdef128Sysregs →
    (effSeen s .enIdcp128 = false → runEvent (.access128 r w false) s = .fault (.sysTrap .el2 0x14#6 w)) ∧
    (effSeen s .enIdcp128 = true → runEvent (.access128 r w false) s = .refused (.access128NotTrapped r)) ∧
    (s.effectWindow = ⟨[], []⟩ → ¬GateOpen s →
      runEvent (.access128 r w false) s = .fault (.sysTrap .el2 0x14#6 w)) ∧
    runEvent (.access128 r w true) s = .refused (.higherPriorityException r)

/-- EnIDCP128 at EL2 and elsewhere: at EL2 an access to a disabled 128-bit register is refused by name (R113, the spec's
decision D18); the trap of R112 happens nowhere but at EL0 under AppliesAtEL0 with EL2 enabled. -/
def Obligations.EnIdcp128Elsewhere : Prop :=
  ∀ (s : State) (r : SysReg) (w : InstrWord),
    (s.cfg.featSctlr2 = true → s.cfg.implEnIdcp128 = true → s.el2Enabled = true → s.ctx.el = .el2 →
      r ∈ s.cfg.impdef128Sysregs → effSeen s .enIdcp128 = false →
      runEvent (.access128 r w false) s = .refused (.access128Disabled r)) ∧
    (∀ hp e, runEvent (.access128 r w hp) s = .fault e →
      e = .sysTrap .el2 0x14#6 w ∧ s.ctx.el = .el0 ∧ s.el2Enabled = true ∧ s.cfg.featVhe = true ∧
        s.ctx.hcrE2h = true ∧ s.ctx.hcrTge = true ∧ r ∈ s.cfg.impdef128Sysregs ∧ hp = false)

/-- EASE (R115): with the guard, every synchronous External abort taken to EL2 goes to VBAR_EL2 plus the SError offset of
its source when the effective value seen is 1, else plus the synchronous offset, at whatever Exception level the PE
executes; PSTATE.A plays no part.
That a Data Abort for a read, reported synchronously, goes to that vector too, with a use of its own of the effective
value, and to none outside EL2, is the model's deduction (log 20).
The offsets of the two kinds are functions of the source (their numbers, R116, play no part here), and entry is a named
outcome (log 8). -/
def Obligations.EaseSelectsVector : Prop :=
  ∀ (s : State) (src : VectorSource), s.cfg.featSctlr2 = true → s.cfg.implEase = true → s.el2Enabled = true →
    (effSeen s .ease = true → runEvent (.syncExternalAbort .el2 src) s =
      .fault (.syncExternalAbort (s.ctx.vbarEl2 + serrorOffset src))) ∧
    (effSeen s .ease = false → runEvent (.syncExternalAbort .el2 src) s =
      .fault (.syncExternalAbort (s.ctx.vbarEl2 + syncOffset src))) ∧
    ∀ (r q : AbortedRead) (route : AbortRouting) (target : EL) (vector : Option Word),
      runEvent (.externalAbort r route) s = .fault (.syncDataAbort q target vector) →
      q = r ∧ target = route.syncTarget ∧ (target ≠ .el2 → vector = none) ∧
      (target = .el2 → ∃ n, vector = some (s.ctx.vbarEl2 +
        if effSeen { s with draws := n } .ease then serrorOffset route.src else syncOffset route.src))

/-- EnANERR and EnADERR (R117, R118), on a read in the EL2 or EL2&0 regime to whose kind the field applies, with the
guard, at an Exception level to which the controls apply (R3, R130; elsewhere any of the three reports, log 35): value 1, a synchronous Data Abort or an asynchronous SError made pending, as a draw; value 0, a synchronous Data
Abort, or Fatal exactly where SYNC_ABORT_IMPOSSIBLE holds (R120, the spec's decision D19). EnANERR governs Normal and
EnADERR Device reads. The environment routes both kinds of report (R125; log 20). -/
def Obligations.AbortReports : Prop :=
  ∀ (s : State) (r : AbortedRead) (route : AbortRouting) (f : ControlField),
    (r.memType = .normal ∧ f = .enAnerr ∨ r.memType = .device ∧ f = .enAderr) → asyncApplies s.cfg r = true →
    r.regime ≠ .other → s.cfg.featSctlr2 = true → implemented s.cfg f = true → s.el2Enabled = true →
    controlsApply s s.ctx.el = true →
    (effSeen s f = true →
      (∃ v, runEvent (.externalAbort r route) s = .fault (.syncDataAbort r route.syncTarget v)) ∨
      ∃ n, runEvent (.externalAbort r route) s =
        .next { s with pendingSErrors := s.pendingSErrors ++ [route.serrorTarget], draws := n }) ∧
    (effSeen s f = false → syncImpossible s.cfg r = true →
      runEvent (.externalAbort r route) s = .fault (.fatal r)) ∧
    (effSeen s f = false → syncImpossible s.cfg r = false →
      ∃ v, runEvent (.externalAbort r route) s = .fault (.syncDataAbort r route.syncTarget v))

/-- Every External abort on a read in the two regimes is reported in one of the three ways R119 names, in every state;
outside them the model refuses by name (log 20). -/
def Obligations.AbortReportsAreThree : Prop :=
  ∀ (s : State) (r : AbortedRead) (route : AbortRouting),
    (r.regime = .other → runEvent (.externalAbort r route) s = .refused (.abortOutsideRegimes r)) ∧
    (r.regime ≠ .other →
      (∃ v, runEvent (.externalAbort r route) s = .fault (.syncDataAbort r route.syncTarget v)) ∨
      runEvent (.externalAbort r route) s = .fault (.fatal r) ∨
      ∃ n, runEvent (.externalAbort r route) s =
        .next { s with pendingSErrors := s.pendingSErrors ++ [route.serrorTarget], draws := n })

/-- R122, for a pending SError with target EL2 (the reading of R123) that the PE is about to take, while it executes at EL2:
under the guard it is not masked by PSTATE.A when the effective value seen is 1, and may be taken when PSTATE.A is 0: the
PE takes it; with value 0 and PSTATE.A 1 it is not taken and stays pending. Where the guard is false, or the target is
higher than EL2, the field does not apply: whatever is stored, the event goes the same way. -/
def Obligations.NmeaLiftsTheMask : Prop :=
  ∀ (s : State) (k : Nat) (sp : StackPointer),
    (s.cfg.featSctlr2 = true → s.cfg.implNmea = true → s.el2Enabled = true → s.ctx.el = .el2 →
      s.pendingSErrors[k]? = some .el2 →
      (effSeen s .nmea = true → ∃ v, runEvent (.takeSError k sp) s = .fault (.serror .el2 v)) ∧
      (effSeen s .nmea = false → s.ctx.pstateA = false → ∃ v, runEvent (.takeSError k sp) s = .fault (.serror .el2 v)) ∧
      (effSeen s .nmea = false → s.ctx.pstateA = true →
        ∃ n, runEvent (.takeSError k sp) s = .next { s with draws := n })) ∧
    ((s.cfg.implNmea = false ∨ s.el2Enabled = false ∨
        ∃ target, s.pendingSErrors[k]? = some target ∧ elRank .el2 < elRank target) →
      ∀ (w : Word) (old : List Word), runEvent (.takeSError k sp) (withStored w old s) =
        mapNext (withStored w old) (runEvent (.takeSError k sp) s))

/-- An SError is taken only at EL2, with target EL2 and EL2 enabled (R122, R123), and then at VBAR_EL2 plus the SError
offset for the same Exception level and the stack pointer in use (R127; the numbers are general knowledge, R116, K16).
One with another target is not taken by this rule, and the model refuses by name (log 21). -/
def Obligations.SErrorTakenOnlyAtEl2 : Prop :=
  ∀ (s : State) (k : Nat) (sp : StackPointer),
    (∀ e : Fault, runEvent (.takeSError k sp) s = .fault e →
      e = .serror .el2 (s.ctx.vbarEl2 + match sp with | .sp0 => 0x180#64 | .spx => 0x380#64) ∧
        s.ctx.el = .el2 ∧ s.pendingSErrors[k]? = some .el2 ∧ s.el2Enabled = true) ∧
    ∀ target, s.pendingSErrors[k]? = some target → target ≠ .el2 →
      runEvent (.takeSError k sp) s = .refused (.serrorOutsideControl target)

/-- EMEC (R58, R59): an access to the Realm physical address space that hits no remembered copy is recorded, with its
regime (R57), as associated with a MECID exactly when the register is present, EMEC is implemented, EL2 is enabled and the
effective value seen is 1, at an Exception level to which the controls apply (R3, R130; elsewhere the attribute is a draw,
log 35). Without the guard it is recorded as not associated, at every level; and EL3's closed gate makes the value 0, with
no window open.
That every regime is covered is the model's choice (R59; log 35), and so is the record (log 29). -/
def Obligations.RealmAccessAttribute : Prop :=
  ∀ (s : State) (rg : Regime) (tr : Option Nat), (∀ k ∈ tr, ∀ c ∈ s.tlbEmec, c.translation ≠ k) →
    ∃ b n, runEvent (.realmAccess rg tr) s = .next { s with lastRealm := some ⟨rg, b⟩, draws := n } ∧
      (controlsApply s s.ctx.el = true →
        (b = true ↔
          s.cfg.featSctlr2 = true ∧ s.cfg.implEmec = true ∧ s.el2Enabled = true ∧ effSeen s .emec = true)) ∧
      (¬(s.cfg.featSctlr2 = true ∧ s.cfg.implEmec = true ∧ s.el2Enabled = true) → b = false) ∧
      (controlsApply s s.ctx.el = true → s.effectWindow = ⟨[], []⟩ → ¬GateOpen s → b = false)

/-- A TLB may keep using EMEC as it was (R41, R60): an access that hits a copy is recorded, and, under the guard of R58 and
at an Exception level to which the controls apply (R3), with the current value or a remembered one, so where both
remembered values equal the current one it is that; where the guard is false it is recorded as not associated, whatever is
remembered (R59). TlbInvalidate removes every copy (R66). -/
def Obligations.TlbRemembersEmec : Prop :=
  (∀ (s : State) (rg : Regime) (k : Nat) (c : TlbEntry),
    s.tlbEmec.find? (fun c => c.translation == k) = some c →
    ∃ b n, runEvent (.realmAccess rg (some k)) s = .next { s with lastRealm := some ⟨rg, b⟩, draws := n } ∧
      (s.cfg.featSctlr2 = true → s.cfg.implEmec = true → s.el2Enabled = true → controlsApply s s.ctx.el = true →
        b = effSeen s .emec ∨ b = c.effEmec ∨ b = c.mecEnabled) ∧
      (¬(s.cfg.featSctlr2 = true ∧ s.cfg.implEmec = true ∧ s.el2Enabled = true) → b = false)) ∧
  ∀ s : State, runEvent .tlbInvalidate s = .next { s with tlbEmec := [] }

/-- A TLB entry created by a fill remembers the effective EMEC of that moment, if the field is implemented, is the one later accesses by that
translation hit, and leaves the copies for other translations alone (R41, R60). -/
def Obligations.TlbFillRemembers : Prop :=
  ∀ (s : State) (k : Nat), ∃ u, runEvent (.tlbFill k) s = .next u ∧
    (u.tlbEmec.find? (fun c => c.translation == k)) =
      some ⟨k, s.cfg.implEmec && effSeen s .emec, mecEnabled s (effSeen s .emec)⟩ ∧
    (∀ j, j ≠ k → u.tlbEmec.find? (fun c => c.translation == j) = s.tlbEmec.find? (fun c => c.translation == j)) ∧
    u.sctlr2El2 = s.sctlr2El2 ∧ u.lastRealm = s.lastRealm

/-- R4: while EL2 is not enabled the stored value changes nothing: every effect event goes the same way whatever is
stored, in the register and in the write-to-effect window, and leaves the stored value as it was. Accesses are not guarded
(C7): at EL3 a write still completes.
R3 and R130: nor does it while the PE executes at a level to which the controls do not apply, EL1, EL3, and EL0 outside
AppliesAtEL0; only EASE, which speaks of exceptions taken to EL2 from whatever level (R115), is left out of this clause. -/
def Obligations.NoEffectWithoutEl2 : Prop :=
  (∀ (s : State) (v : Word) (old : List Word), s.el2Enabled = false →
    (∀ e : Event, e.isEffect = true →
      runEvent e (withStored v old s) = mapNext (withStored v old) (runEvent e s) ∧
      ∀ u, runEvent e s = .next u → u.sctlr2El2 = s.sctlr2El2) ∧
    (∀ t, Present s → s.ctx.el = .el3 →
      ∃ u, exec (.msrSctlr2El2 t) s = .next u ∧ u.sctlr2El2 = s.readX t &&& keepMask s.cfg)) ∧
  ∀ (s : State) (v : Word) (old : List Word) (e : Event),
    s.ctx.el ≠ .el2 → ¬(s.ctx.el = .el0 ∧ s.cfg.featVhe = true ∧ s.ctx.hcrE2h = true ∧ s.ctx.hcrTge = true) →
    e.isEffect = true → (∀ target src, e ≠ .syncExternalAbort target src) →
    (∀ r route, e = .externalAbort r route → route.syncTarget ≠ .el2) →
    runEvent e (withStored v old s) = mapNext (withStored v old) (runEvent e s)

/-- All overrides at once (R124): with the gate of EL3 closed and no window open, whatever is stored, the effects go the
way of the value 0, each at the levels its rule names: EL0 accesses to the 128-bit registers trap (R112) and their
functionality at EL2 is disabled, which the model refuses by name (R113, D18); aborts taken to EL2 use the synchronous
vector (R115); aborts on reads are reported synchronously, subject to R120; PSTATE.A masks SErrors at EL2; MEC is not
enabled. The vector of the Data Abort rests on log 20's deduction, the record of a Realm access on log 29. -/
def Obligations.AllFieldsOffTogether : Prop :=
  ∀ s : State, s.effectWindow = ⟨[], []⟩ → ¬GateOpen s → s.cfg.featSctlr2 = true → s.el2Enabled = true →
    (∀ r w, s.cfg.implEnIdcp128 = true → s.ctx.el = .el0 → appliesAtEl0 s = true → r ∈ s.cfg.impdef128Sysregs →
      runEvent (.access128 r w false) s = .fault (.sysTrap .el2 0x14#6 w)) ∧
    (∀ r w, s.cfg.implEnIdcp128 = true → s.ctx.el = .el2 → r ∈ s.cfg.impdef128Sysregs →
      runEvent (.access128 r w false) s = .refused (.access128Disabled r)) ∧
    (∀ src, s.cfg.implEase = true →
      runEvent (.syncExternalAbort .el2 src) s = .fault (.syncExternalAbort (s.ctx.vbarEl2 + syncOffset src))) ∧
    (∀ r route, r.regime ≠ .other → implemented s.cfg (abortField r) = true → asyncApplies s.cfg r = true →
      controlsApply s s.ctx.el = true →
      runEvent (.externalAbort r route) s =
        .fault (if syncImpossible s.cfg r then .fatal r else .syncDataAbort r route.syncTarget
          (if route.syncTarget = .el2 ∧ s.cfg.implEase = true then some (s.ctx.vbarEl2 + syncOffset route.src)
            else none))) ∧
    (∀ k sp, s.cfg.implNmea = true → s.ctx.el = .el2 → s.pendingSErrors[k]? = some .el2 → s.ctx.pstateA = true →
      runEvent (.takeSError k sp) s = .next s) ∧
    (∀ rg, controlsApply s s.ctx.el = true →
      runEvent (.realmAccess rg none) s = .next { s with lastRealm := some ⟨rg, false⟩ })

/-! ### Reset and whole-machine rules -/

/-- Reset (R45, R140; the draw is the spec's decision D3): after a Reset event the register is a draw masked by
KeepMask, since the source gives no bit a value and names no kind of reset (R44), the hidden items are empty, and what is
outside this spec is the environment's (R46; log 24). -/
def Obligations.ResetEvent : Prop :=
  ∀ (s : State) (r : ResetInputs), ∃ u, runEvent (.reset r) s = .next u ∧
    u.sctlr2El2 = Config.resetValue s.draws &&& keepMask s.cfg ∧ Kept u.cfg u.sctlr2El2 ∧
    u.pendingAlias = none ∧ u.effectWindow = ⟨[], []⟩ ∧ u.tlbEmec = [] ∧ u.draws ≠ s.draws ∧
    u.ctx = r.ctx ∧ u.pc = r.pc ∧ u.x = r.x ∧ u.sctlr2El1 = r.sctlr2El1 ∧ u.cfg = s.cfg ∧ u.mem = s.mem

/-- The state after reset meets the invariant, and its hidden items are empty (R45). -/
def Obligations.ResetStateMeetsInvariant : Prop :=
  Inv State.reset ∧ State.reset.pendingAlias = none ∧ State.reset.effectWindow = ⟨[], []⟩ ∧
    State.reset.tlbEmec = [] ∧ State.reset.turns = []

/-- Every step keeps the invariant: memory stays canonical, the register and every remembered value stay within
KeepMask, and an alias window exists only with FEAT_VHE and with a write in it (R29, R32, R42, R45). -/
def Obligations.StepKeepsInvariant : Prop :=
  ∀ s u : State, Inv s → step s = .next u → Inv u

/-- No step changes the implementation (R8). -/
def Obligations.ConfigurationIsFixed : Prop :=
  ∀ s u : State, step s = .next u → u.cfg = s.cfg

/-- R36: no access form and no field rule writes PSTATE, or another of the inputs that are a `Ctx`: only the environment
does, by its two events for it. -/
def Obligations.InputsAreOnlyTheEnvironments : Prop :=
  ∀ s u : State, step s = .next u →
    u.ctx = s.ctx ∨ (∃ c, EventTurn s (.setInputs c)) ∨ ∃ r, EventTurn s (.reset r)

/-- The stored value of SCTLR2_EL2 changes only by a reset or by a write form that is present: by the name SCTLR2_EL2 at
EL3, whatever the gate, or at EL2 with the gate open, and by the name SCTLR2_EL1 only at EL2 with the gate open and E2H
(R33, R129, R130). -/
def Obligations.RegisterChangesOnlyByPrivilegedWrite : Prop :=
  ∀ s u : State, step s = .next u → u.sctlr2El2 ≠ s.sctlr2El2 →
    (∃ r, EventTurn s (.reset r)) ∨
    (PeTurn s ∧ Present s ∧ ∃ n t, fetchInstr s = .ok (form n .write t) ∧
      ((n = .sctlr2El2 ∧ El2NameReaches s) ∨
       (n = .sctlr2El1 ∧ s.ctx.el = .el2 ∧ GateOpen s ∧ s.ctx.hcrE2h = true)))

/-- SCTLR2_EL1 changes only by a reset, by the environment that supplies it (R10) or by the write form that names it,
and by the form never at EL0 (R37, R90, R92). -/
def Obligations.Sctlr2El1ChangesOnlyByItsWrite : Prop :=
  ∀ s u : State, step s = .next u → u.sctlr2El1 ≠ s.sctlr2El1 →
    (∃ r, EventTurn s (.reset r)) ∨ EventTurn s (.setSctlr2El1 u.sctlr2El1) ∨
    (PeTurn s ∧ Present s ∧ ∃ t, fetchInstr s = .ok (.msrSctlr2El1 t) ∧ El1NameReachesEl1 .write s ∧
      u.sctlr2El1 = Config.writeFilterEl1 (s.readX t))

/-- In the PE's turn, a step of a state with an aligned program counter either stops or falls through to the next word:
no form is a branch (R35, R95, the spec's decisions D16 and D17). -/
def Obligations.FormsFallThrough : Prop :=
  ∀ s u : State, PeTurn s → step s = .next u →
    s.pc.toNat % 4 = 0 ∧ u.pc = s.pc + 4#64 ∧ u.pc.toNat % 4 = 0

/-- What the environment's events for its inputs do: the three by which it supplies a general register, SCTLR2_EL1 or the
program counter do just that (R10, R34; the event for the program counter is the model's, log 18); new inputs that leave
SCR_EL3.SCTLR2En as it is are installed and no window changes (R10, R149); a store to the slot stores all 64 bits in its
eight bytes in the order NVMEM_BYTE_ORDER and nothing else (R52, R53), and is refused where NVMEM_BASE is misaligned (R54,
the spec's decision D8; log 17). Every other event but Reset leaves X0 to X30, the program counter and both SCTLR2
registers as they were (R32, R35, R37). -/
def Obligations.EventsKeepRegisters : Prop :=
  (∀ (s : State) (t : Nat) (v : Word),
    runEvent (.setX t v) s = .next (s.writeX t v) ∧ runEvent (.setSctlr2El1 v) s = .next { s with sctlr2El1 := v } ∧
    runEvent (.setPc v) s = .next { s with pc := v }) ∧
  (∀ (s : State) (c : Ctx), c.scrSctlr2En = s.ctx.scrSctlr2En → runEvent (.setInputs c) s = .next { s with ctx := c }) ∧
  (∀ (s : State) (v : Word),
    (s.cfg.nvmemBase.toNat % 8 ≠ 0 → runEvent (.slotStore v) s = .refused .nvmemMisaligned) ∧
    (s.cfg.nvmemBase.toNat % 8 = 0 → ∃ u, runEvent (.slotStore v) s = .next u ∧
      (∀ k : Fin 8, u.mem.read ((s.cfg.nvmemBase + 0x278#64).toNat + k) =
        some (v.extractLsb' (8 * (match s.cfg.nvmemByteOrder with | .little => k.val | .big => 7 - k.val)) 8)) ∧
      (∀ a, a < (s.cfg.nvmemBase + 0x278#64).toNat ∨ (s.cfg.nvmemBase + 0x278#64).toNat + 8 ≤ a →
        u.mem.read a = s.mem.read a) ∧
      u = { s with mem := u.mem, slotStored := true })) ∧
  ∀ (s u : State) (e : Event), runEvent e s = .next u → (∀ r, e ≠ .reset r) →
    u.sctlr2El2 = s.sctlr2El2 ∧ (∀ r, (∀ v, e ≠ .setX r v) → u.readX r = s.readX r) ∧
    ((∀ v, e ≠ .setPc v) → u.pc = s.pc) ∧ ((∀ v, e ≠ .setSctlr2El1 v) → u.sctlr2El1 = s.sctlr2El1)

/-- Pending SErrors: one that another source raises joins the list, and so does an asynchronous report (R119, R122), each
with its target. How one is cleared or rerouted is not in the spec (R125): that a step changes the list in no other way, a
Reset apart, and that an event for an SError that does not exist does nothing, are the model's choices (log 21; log 24 for
the Reset). -/
def Obligations.PendingSErrorsGrowByReports : Prop :=
  (∀ (s : State) (target : EL),
    runEvent (.raiseSError target) s = .next { s with pendingSErrors := s.pendingSErrors ++ [target] }) ∧
  (∀ (s : State) (k : Nat) (sp : StackPointer), s.pendingSErrors.length ≤ k →
    runEvent (.takeSError k sp) s = .next s) ∧
  ∀ s u : State, step s = .next u →
    u.pendingSErrors = s.pendingSErrors ∨ (∃ r, EventTurn s (.reset r)) ∨
    (∃ t, EventTurn s (.raiseSError t) ∧ u.pendingSErrors = s.pendingSErrors ++ [t]) ∨
    ∃ r route, EventTurn s (.externalAbort r route) ∧
      u.pendingSErrors = s.pendingSErrors ++ [route.serrorTarget]
end

