-- ==== Sys2Proof/Laws/Fields.lean ====
section
/-! SUPPORT. The write filter: what it stores is kept, it is idempotent, and its mask bit by bit. -/

namespace Sys2Proof.Machine

theorem kept_writeFilter (cfg : Config) (v : Word) : Kept cfg (writeFilter cfg v) := by
  simp [Kept, writeFilter, BitVec.and_assoc]

theorem writeFilter_of_kept {cfg : Config} {v : Word} (h : Kept cfg v) : writeFilter cfg v = v := by
  refine BitVec.eq_of_getLsbD_eq fun i hi => ?_
  have := congrArg (fun w : Word => w.getLsbD i) h
  simp only [BitVec.getLsbD_and, BitVec.getLsbD_not, hi, decide_true, Bool.true_and, BitVec.getLsbD_zero] at this
  simp only [writeFilter, BitVec.getLsbD_and]
  cases h1 : v.getLsbD i <;> simp_all

theorem writeFilter_writeFilter (cfg : Config) (v : Word) :
    writeFilter cfg (writeFilter cfg v) = writeFilter cfg v :=
  writeFilter_of_kept (kept_writeFilter cfg v)

@[simp] theorem getLsbD_fieldMask (cfg : Config) (f : ControlField) (i : Nat) :
    (fieldMask cfg f).getLsbD i = (implemented cfg f && decide (i < 64) && decide (i = fieldPos cfg f)) := by
  unfold fieldMask
  cases implemented cfg f
  · simp
  · by_cases h : i = fieldPos cfg f
    · subst h
      simp [BitVec.getLsbD_shiftLeft]
    · simp only [if_true, BitVec.getLsbD_shiftLeft, BitVec.getLsbD_one, h, decide_false, Bool.and_false]
      by_cases h' : i < fieldPos cfg f
      · simp [h']
      · have : i - fieldPos cfg f ≠ 0 := by omega
        simp [this]

/-- A bit of FuncMask: the bit of some implemented field. -/
theorem getLsbD_funcMask (cfg : Config) (i : Nat) :
    (funcMask cfg).getLsbD i
      = allFields.any (fun f => implemented cfg f && decide (i < 64) && decide (i = fieldPos cfg f)) := by
  simp [funcMask, allFields]

/-- Distinct fields have distinct positions (R21). -/
theorem fieldPos_inj (cfg : Config) {f g : ControlField} (h : fieldPos cfg f = fieldPos cfg g) : f = g := by
  cases f <;> cases g <;> simp [fieldPos, fieldOffset] at h ⊢

/-- The position of a field lies in bits 1 to 30 for every admitted parameter. -/
theorem fieldPos_lt {cfg : Config} (h : ConfigWf cfg) (f : ControlField) : fieldPos cfg f < 64 := by
  have := h.2.1
  cases f <;> simp only [fieldPos, fieldOffset] <;> omega

theorem mem_allFields (f : ControlField) : f ∈ allFields := by cases f <;> decide

/-- The bit of an implemented field is kept (R29). -/
theorem keepMask_field {cfg : Config} (hw : ConfigWf cfg) {f : ControlField} (hf : implemented cfg f = true) :
    (keepMask cfg).getLsbD (fieldPos cfg f) = true := by
  have : (funcMask cfg).getLsbD (fieldPos cfg f) = true := by
    rw [getLsbD_funcMask]
    exact List.any_eq_true.2 ⟨f, mem_allFields f, by simp [hf, fieldPos_lt hw f]⟩
  simp [keepMask, this]

theorem fieldBit_writeFilter {cfg : Config} (hw : ConfigWf cfg) {f : ControlField} (hf : implemented cfg f = true)
    (v : Word) : fieldBit cfg (writeFilter cfg v) f = fieldBit cfg v f := by
  simp [fieldBit, writeFilter, keepMask_field hw hf]

/-- Stored values that agree on FuncMask agree on every implemented field (R28, R29). -/
theorem fieldBit_congr {cfg : Config} {v w : Word} {f : ControlField} (hf : implemented cfg f = true)
    (h : v &&& funcMask cfg = w &&& funcMask cfg) : fieldBit cfg v f = fieldBit cfg w f := by
  by_cases hp : fieldPos cfg f < 64
  · have hm : (funcMask cfg).getLsbD (fieldPos cfg f) = true := by
      rw [getLsbD_funcMask]
      exact List.any_eq_true.2 ⟨f, mem_allFields f, by simp [hf, hp]⟩
    have := congrArg (fun x : Word => x.getLsbD (fieldPos cfg f)) h
    simpa [hm, fieldBit] using this
  · simp [fieldBit, BitVec.getLsbD_of_ge _ _ (Nat.not_lt.1 hp)]

end Sys2Proof.Machine
end

