-- ==== Sys2Proof/Laws/Flags.lean ====
section
/-! SUPPORT. Draws and effective values: a draw is one of its alternatives, and what a use of a field can see. -/

namespace Sys2Proof.Machine

/-- A draw is one of its alternatives, and nothing more is known of it. -/
theorem pick_mem {α : Type} (n : Nat) (a : α) (rest : List α) : pick n a rest ∈ a :: rest := by
  have h : Config.freeChoice n % (rest.length + 1) < (a :: rest).length := by
    simpa using Nat.mod_lt _ (Nat.succ_pos _)
  unfold pick
  rw [List.getD_eq_getElem _ _ h]
  exact List.getElem_mem h

theorem effectWindow_closed_iff (w : EffectWindow) : w.closed = true ↔ w = ⟨[], []⟩ := by
  obtain ⟨a, b⟩ := w
  simp [EffectWindow.closed]

theorem effSeen_of_closed {s : State} (h : s.effectWindow = ⟨[], []⟩) (f : ControlField) : effSeen s f = effNow s f := by
  simp [effSeen, (effectWindow_closed_iff _).2 h]

/-- One use of an effective value computes R30 from the current or a replaced stored value, and the current or a
replaced SCR_EL3.SCTLR2En (R43, R149). -/
theorem effSeen_cases (s : State) (f : ControlField) :
    ∃ v ∈ s.sctlr2El2 :: s.effectWindow.oldStored, ∃ en ∈ s.ctx.scrSctlr2En :: s.effectWindow.oldSctlr2En,
      effSeen s f = eff s.cfg { s.inputs with ctx := { s.ctx with scrSctlr2En := en } } v f := by
  unfold effSeen
  split
  · exact ⟨_, List.mem_cons_self, _, List.mem_cons_self, rfl⟩
  · rcases List.mem_cons.1 (pick_mem s.draws (effNow s f) (effCandidates s f)) with h | h
    · exact ⟨_, List.mem_cons_self, _, List.mem_cons_self, h⟩
    · obtain ⟨en, hen, h⟩ := List.mem_flatMap.1 h
      obtain ⟨v, hv, h⟩ := List.mem_map.1 h
      exact ⟨v, hv, en, hen, h.symm⟩

theorem eff_of_off {cfg : Config} {i : Inputs} (h : cfg.haveEl3 = true) (h' : i.ctx.scrSctlr2En = false) (v : Word)
    (f : ControlField) : eff cfg i v f = false := by
  simp [eff, h, h']

theorem effNow_of_off {s : State} (h : s.cfg.haveEl3 = true) (h' : s.ctx.scrSctlr2En = false) (f : ControlField) :
    effNow s f = false := eff_of_off h h' _ f

end Sys2Proof.Machine
end

