-- ==== Sys2Proof/Laws/Memory.lean ====
section
/-! SUPPORT. The laws of memory: a byte written reads back, every other byte is as before, and every write keeps the
canonical form. -/

namespace Sys2Proof.Machine

namespace Memory

theorem read_write_same (m : Memory) (a : Nat) (v : Byte) : (m.write a v).read a = some v := by
  induction m with
  | nil => simp [write, read]
  | cons c m ih =>
    obtain ⟨k, b⟩ := c
    simp only [write]
    split
    · simp [read]
    · split
      · simp [read]
      · rename_i h1 h2
        simp [read, Ne.symm h2, ih]

theorem read_write_other (m : Memory) {a c : Nat} (v : Byte) (h : c ≠ a) :
    (m.write a v).read c = m.read c := by
  induction m with
  | nil => simp [write, read, Ne.symm h]
  | cons d m ih =>
    obtain ⟨k, b⟩ := d
    simp only [write]
    split
    · simp [read, Ne.symm h]
    · split
      · rename_i h1 h2
        subst h2
        simp [read, Ne.symm h]
      · simp [read, ih]

theorem mem_write {m : Memory} {a : Nat} {v : Byte} {c : Host.Cell} (h : c ∈ m.write a v) :
    c = (a, v) ∨ c ∈ m := by
  induction m with
  | nil => simpa [write] using h
  | cons d m ih =>
    obtain ⟨k, b⟩ := d
    simp only [write] at h
    split at h
    · simpa using h
    · split at h
      · simp only [List.mem_cons] at h ⊢
        tauto
      · simp only [List.mem_cons] at h ⊢
        rcases h with h | h
        · exact .inr (.inl h)
        · exact (ih h).imp id .inr

theorem write_wf {m : Memory} (hm : m.wf) {a : Nat} (ha : a < 2 ^ 64) (v : Byte) : (m.write a v).wf := by
  obtain ⟨hs, hb⟩ := hm
  refine ⟨?_, fun c hc => (mem_write hc).elim (fun e => e ▸ ha) (hb c)⟩
  clear hb ha
  induction m with
  | nil => simp [write]
  | cons d m ih =>
    obtain ⟨k, b⟩ := d
    obtain ⟨hk, hs'⟩ := List.pairwise_cons.1 hs
    simp only [write]
    split
    · rename_i h
      refine List.pairwise_cons.2 ⟨fun c hc => ?_, hs⟩
      rcases List.mem_cons.1 hc with rfl | hc
      · exact h
      · exact lt_trans h (hk c hc)
    · split
      · rename_i h
        exact List.pairwise_cons.2 ⟨fun c hc => by simpa [h] using hk c hc, hs'⟩
      · refine List.pairwise_cons.2 ⟨fun c hc => ?_, ih hs'⟩
        rcases mem_write hc with rfl | hc
        · show k < a
          omega
        · exact hk c hc

theorem writeList_wf {m : Memory} (hm : m.wf) {a : Nat} (vs : List Byte) (ha : a + vs.length ≤ 2 ^ 64) :
    (m.writeList a vs).wf := by
  induction vs generalizing m a with
  | nil => exact hm
  | cons v vs ih =>
    simp only [List.length_cons] at ha
    exact ih (write_wf hm (by omega) v) (by omega)

theorem read_writeList_outside (m : Memory) (a : Nat) (vs : List Byte) {c : Nat} (h : c < a ∨ a + vs.length ≤ c) :
    (m.writeList a vs).read c = m.read c := by
  induction vs generalizing m a with
  | nil => rfl
  | cons v vs ih =>
    simp only [List.length_cons] at h
    rw [writeList, ih _ _ (by omega), read_write_other _ _ (by omega)]

theorem read_writeList_inside (m : Memory) (a : Nat) (vs : List Byte) {i : Nat} (h : i < vs.length) :
    (m.writeList a vs).read (a + i) = some vs[i] := by
  induction vs generalizing m a i with
  | nil => simp at h
  | cons v vs ih =>
    rw [writeList]
    cases i with
    | zero =>
      rw [read_writeList_outside _ _ _ (by omega)]
      simpa using read_write_same m a v
    | succ i =>
      have := ih (m.write a v) (a + 1) (i := i) (by simpa using h)
      rw [show a + (i + 1) = a + 1 + i by omega, this]
      simp

end Memory

end Sys2Proof.Machine
end

