-- ==== Sys2Proof/Laws/State.lean ====
section
/-! SUPPORT. What each named update of the state leaves in each field, so that no proof unfolds a record update. -/

namespace Sys2Proof.Machine

variable (s : State)

/-! ### State.inputs -/

@[simp] theorem State.inputs_ctx : s.inputs.ctx = s.ctx := rfl
@[simp] theorem State.inputs_x : s.inputs.x = s.x := rfl
@[simp] theorem State.inputs_sctlr2El1 : s.inputs.sctlr2El1 = s.sctlr2El1 := rfl
@[simp] theorem State.inputs_slot : s.inputs.slot = slotCells s := rfl

/-! ### State.writeX -/

@[simp] theorem State.writeX_cfg (t : Nat) (v : Word) : (s.writeX t v).cfg = s.cfg := rfl
@[simp] theorem State.writeX_ctx (t : Nat) (v : Word) : (s.writeX t v).ctx = s.ctx := rfl
@[simp] theorem State.writeX_x (t : Nat) (v : Word) : (s.writeX t v).x = s.x.setIfInBounds t v := rfl
@[simp] theorem State.writeX_pc (t : Nat) (v : Word) : (s.writeX t v).pc = s.pc := rfl
@[simp] theorem State.writeX_sctlr2El2 (t : Nat) (v : Word) : (s.writeX t v).sctlr2El2 = s.sctlr2El2 := rfl
@[simp] theorem State.writeX_sctlr2El1 (t : Nat) (v : Word) : (s.writeX t v).sctlr2El1 = s.sctlr2El1 := rfl
@[simp] theorem State.writeX_pendingAlias (t : Nat) (v : Word) : (s.writeX t v).pendingAlias = s.pendingAlias := rfl
@[simp] theorem State.writeX_effectWindow (t : Nat) (v : Word) : (s.writeX t v).effectWindow = s.effectWindow := rfl
@[simp] theorem State.writeX_tlbEmec (t : Nat) (v : Word) : (s.writeX t v).tlbEmec = s.tlbEmec := rfl
@[simp] theorem State.writeX_pendingSErrors (t : Nat) (v : Word) : (s.writeX t v).pendingSErrors = s.pendingSErrors := rfl
@[simp] theorem State.writeX_lastRealm (t : Nat) (v : Word) : (s.writeX t v).lastRealm = s.lastRealm := rfl
@[simp] theorem State.writeX_mem (t : Nat) (v : Word) : (s.writeX t v).mem = s.mem := rfl
@[simp] theorem State.writeX_slotStored (t : Nat) (v : Word) : (s.writeX t v).slotStored = s.slotStored := rfl
@[simp] theorem State.writeX_turns (t : Nat) (v : Word) : (s.writeX t v).turns = s.turns := rfl
@[simp] theorem State.writeX_draws (t : Nat) (v : Word) : (s.writeX t v).draws = s.draws := rfl

/-! ### State.advance -/

@[simp] theorem State.advance_cfg : (s.advance).cfg = s.cfg := rfl
@[simp] theorem State.advance_ctx : (s.advance).ctx = s.ctx := rfl
@[simp] theorem State.advance_x : (s.advance).x = s.x := rfl
@[simp] theorem State.advance_pc : (s.advance).pc = s.pc + 4#64 := rfl
@[simp] theorem State.advance_sctlr2El2 : (s.advance).sctlr2El2 = s.sctlr2El2 := rfl
@[simp] theorem State.advance_sctlr2El1 : (s.advance).sctlr2El1 = s.sctlr2El1 := rfl
@[simp] theorem State.advance_pendingAlias : (s.advance).pendingAlias = s.pendingAlias := rfl
@[simp] theorem State.advance_effectWindow : (s.advance).effectWindow = s.effectWindow := rfl
@[simp] theorem State.advance_tlbEmec : (s.advance).tlbEmec = s.tlbEmec := rfl
@[simp] theorem State.advance_pendingSErrors : (s.advance).pendingSErrors = s.pendingSErrors := rfl
@[simp] theorem State.advance_lastRealm : (s.advance).lastRealm = s.lastRealm := rfl
@[simp] theorem State.advance_mem : (s.advance).mem = s.mem := rfl
@[simp] theorem State.advance_slotStored : (s.advance).slotStored = s.slotStored := rfl
@[simp] theorem State.advance_turns : (s.advance).turns = s.turns := rfl
@[simp] theorem State.advance_draws : (s.advance).draws = s.draws := rfl

/-! ### afterRead -/

@[simp] theorem afterRead_cfg (n : RegName) : (afterRead n s).cfg = s.cfg := rfl
@[simp] theorem afterRead_ctx (n : RegName) : (afterRead n s).ctx = s.ctx := rfl
@[simp] theorem afterRead_x (n : RegName) : (afterRead n s).x = s.x := rfl
@[simp] theorem afterRead_pc (n : RegName) : (afterRead n s).pc = s.pc := rfl
@[simp] theorem afterRead_sctlr2El2 (n : RegName) : (afterRead n s).sctlr2El2 = s.sctlr2El2 := rfl
@[simp] theorem afterRead_sctlr2El1 (n : RegName) : (afterRead n s).sctlr2El1 = s.sctlr2El1 := rfl
@[simp] theorem afterRead_pendingAlias (n : RegName) : (afterRead n s).pendingAlias = s.pendingAlias := rfl
@[simp] theorem afterRead_effectWindow (n : RegName) : (afterRead n s).effectWindow = s.effectWindow := rfl
@[simp] theorem afterRead_tlbEmec (n : RegName) : (afterRead n s).tlbEmec = s.tlbEmec := rfl
@[simp] theorem afterRead_pendingSErrors (n : RegName) : (afterRead n s).pendingSErrors = s.pendingSErrors := rfl
@[simp] theorem afterRead_lastRealm (n : RegName) : (afterRead n s).lastRealm = s.lastRealm := rfl
@[simp] theorem afterRead_mem (n : RegName) : (afterRead n s).mem = s.mem := rfl
@[simp] theorem afterRead_slotStored (n : RegName) : (afterRead n s).slotStored = s.slotStored := rfl
@[simp] theorem afterRead_turns (n : RegName) : (afterRead n s).turns = s.turns := rfl
@[simp] theorem afterRead_draws (n : RegName) : (afterRead n s).draws = drawsAfter n s := rfl

/-! ### afterSlotRead -/

@[simp] theorem afterSlotRead_cfg : (afterSlotRead s).cfg = s.cfg := rfl
@[simp] theorem afterSlotRead_ctx : (afterSlotRead s).ctx = s.ctx := rfl
@[simp] theorem afterSlotRead_x : (afterSlotRead s).x = s.x := rfl
@[simp] theorem afterSlotRead_pc : (afterSlotRead s).pc = s.pc := rfl
@[simp] theorem afterSlotRead_sctlr2El2 : (afterSlotRead s).sctlr2El2 = s.sctlr2El2 := rfl
@[simp] theorem afterSlotRead_sctlr2El1 : (afterSlotRead s).sctlr2El1 = s.sctlr2El1 := rfl
@[simp] theorem afterSlotRead_pendingAlias : (afterSlotRead s).pendingAlias = s.pendingAlias := rfl
@[simp] theorem afterSlotRead_effectWindow : (afterSlotRead s).effectWindow = s.effectWindow := rfl
@[simp] theorem afterSlotRead_tlbEmec : (afterSlotRead s).tlbEmec = s.tlbEmec := rfl
@[simp] theorem afterSlotRead_pendingSErrors : (afterSlotRead s).pendingSErrors = s.pendingSErrors := rfl
@[simp] theorem afterSlotRead_lastRealm : (afterSlotRead s).lastRealm = s.lastRealm := rfl
@[simp] theorem afterSlotRead_mem : (afterSlotRead s).mem = s.mem := rfl
@[simp] theorem afterSlotRead_slotStored : (afterSlotRead s).slotStored = s.slotStored := rfl
@[simp] theorem afterSlotRead_turns : (afterSlotRead s).turns = s.turns := rfl
@[simp] theorem afterSlotRead_draws : (afterSlotRead s).draws = if slotWritten s then s.draws else s.draws + 1 := rfl

/-! ### writeSlot -/

@[simp] theorem writeSlot_cfg (v : Word) : (writeSlot v s).cfg = s.cfg := rfl
@[simp] theorem writeSlot_ctx (v : Word) : (writeSlot v s).ctx = s.ctx := rfl
@[simp] theorem writeSlot_x (v : Word) : (writeSlot v s).x = s.x := rfl
@[simp] theorem writeSlot_pc (v : Word) : (writeSlot v s).pc = s.pc := rfl
@[simp] theorem writeSlot_sctlr2El2 (v : Word) : (writeSlot v s).sctlr2El2 = s.sctlr2El2 := rfl
@[simp] theorem writeSlot_sctlr2El1 (v : Word) : (writeSlot v s).sctlr2El1 = s.sctlr2El1 := rfl
@[simp] theorem writeSlot_pendingAlias (v : Word) : (writeSlot v s).pendingAlias = s.pendingAlias := rfl
@[simp] theorem writeSlot_effectWindow (v : Word) : (writeSlot v s).effectWindow = s.effectWindow := rfl
@[simp] theorem writeSlot_tlbEmec (v : Word) : (writeSlot v s).tlbEmec = s.tlbEmec := rfl
@[simp] theorem writeSlot_pendingSErrors (v : Word) : (writeSlot v s).pendingSErrors = s.pendingSErrors := rfl
@[simp] theorem writeSlot_lastRealm (v : Word) : (writeSlot v s).lastRealm = s.lastRealm := rfl
@[simp] theorem writeSlot_mem (v : Word) : (writeSlot v s).mem = s.mem.writeList (slotAddr s.cfg) (wordToBytes s.cfg.nvmemByteOrder v) := rfl
@[simp] theorem writeSlot_slotStored (v : Word) : (writeSlot v s).slotStored = true := rfl
@[simp] theorem writeSlot_turns (v : Word) : (writeSlot v s).turns = s.turns := rfl
@[simp] theorem writeSlot_draws (v : Word) : (writeSlot v s).draws = s.draws := rfl

/-! ### writeSctlr2El2 -/

@[simp] theorem writeSctlr2El2_cfg (n : RegName) (v : Word) : (writeSctlr2El2 n v s).cfg = s.cfg := rfl
@[simp] theorem writeSctlr2El2_ctx (n : RegName) (v : Word) : (writeSctlr2El2 n v s).ctx = s.ctx := rfl
@[simp] theorem writeSctlr2El2_x (n : RegName) (v : Word) : (writeSctlr2El2 n v s).x = s.x := rfl
@[simp] theorem writeSctlr2El2_pc (n : RegName) (v : Word) : (writeSctlr2El2 n v s).pc = s.pc := rfl
@[simp] theorem writeSctlr2El2_sctlr2El2 (n : RegName) (v : Word) : (writeSctlr2El2 n v s).sctlr2El2 = storedAfter n v s := rfl
@[simp] theorem writeSctlr2El2_sctlr2El1 (n : RegName) (v : Word) : (writeSctlr2El2 n v s).sctlr2El1 = s.sctlr2El1 := rfl
@[simp] theorem writeSctlr2El2_pendingAlias (n : RegName) (v : Word) : (writeSctlr2El2 n v s).pendingAlias = aliasAfter n v s := rfl
@[simp] theorem writeSctlr2El2_effectWindow (n : RegName) (v : Word) : (writeSctlr2El2 n v s).effectWindow = windowAfter n v s := rfl
@[simp] theorem writeSctlr2El2_tlbEmec (n : RegName) (v : Word) : (writeSctlr2El2 n v s).tlbEmec = s.tlbEmec := rfl
@[simp] theorem writeSctlr2El2_pendingSErrors (n : RegName) (v : Word) : (writeSctlr2El2 n v s).pendingSErrors = s.pendingSErrors := rfl
@[simp] theorem writeSctlr2El2_lastRealm (n : RegName) (v : Word) : (writeSctlr2El2 n v s).lastRealm = s.lastRealm := rfl
@[simp] theorem writeSctlr2El2_mem (n : RegName) (v : Word) : (writeSctlr2El2 n v s).mem = s.mem := rfl
@[simp] theorem writeSctlr2El2_slotStored (n : RegName) (v : Word) : (writeSctlr2El2 n v s).slotStored = s.slotStored := rfl
@[simp] theorem writeSctlr2El2_turns (n : RegName) (v : Word) : (writeSctlr2El2 n v s).turns = s.turns := rfl
@[simp] theorem writeSctlr2El2_draws (n : RegName) (v : Word) : (writeSctlr2El2 n v s).draws = drawsAfter n s := rfl

/-! ### writeSctlr2El1 -/

@[simp] theorem writeSctlr2El1_cfg (v : Word) : (writeSctlr2El1 v s).cfg = s.cfg := rfl
@[simp] theorem writeSctlr2El1_ctx (v : Word) : (writeSctlr2El1 v s).ctx = s.ctx := rfl
@[simp] theorem writeSctlr2El1_x (v : Word) : (writeSctlr2El1 v s).x = s.x := rfl
@[simp] theorem writeSctlr2El1_pc (v : Word) : (writeSctlr2El1 v s).pc = s.pc := rfl
@[simp] theorem writeSctlr2El1_sctlr2El2 (v : Word) : (writeSctlr2El1 v s).sctlr2El2 = s.sctlr2El2 := rfl
@[simp] theorem writeSctlr2El1_sctlr2El1 (v : Word) : (writeSctlr2El1 v s).sctlr2El1 = Config.writeFilterEl1 v := rfl
@[simp] theorem writeSctlr2El1_pendingAlias (v : Word) : (writeSctlr2El1 v s).pendingAlias = s.pendingAlias := rfl
@[simp] theorem writeSctlr2El1_effectWindow (v : Word) : (writeSctlr2El1 v s).effectWindow = s.effectWindow := rfl
@[simp] theorem writeSctlr2El1_tlbEmec (v : Word) : (writeSctlr2El1 v s).tlbEmec = s.tlbEmec := rfl
@[simp] theorem writeSctlr2El1_pendingSErrors (v : Word) : (writeSctlr2El1 v s).pendingSErrors = s.pendingSErrors := rfl
@[simp] theorem writeSctlr2El1_lastRealm (v : Word) : (writeSctlr2El1 v s).lastRealm = s.lastRealm := rfl
@[simp] theorem writeSctlr2El1_mem (v : Word) : (writeSctlr2El1 v s).mem = s.mem := rfl
@[simp] theorem writeSctlr2El1_slotStored (v : Word) : (writeSctlr2El1 v s).slotStored = s.slotStored := rfl
@[simp] theorem writeSctlr2El1_turns (v : Word) : (writeSctlr2El1 v s).turns = s.turns := rfl
@[simp] theorem writeSctlr2El1_draws (v : Word) : (writeSctlr2El1 v s).draws = s.draws := rfl

/-! ### afterEff -/

@[simp] theorem afterEff_cfg : (afterEff s).cfg = s.cfg := rfl
@[simp] theorem afterEff_ctx : (afterEff s).ctx = s.ctx := rfl
@[simp] theorem afterEff_x : (afterEff s).x = s.x := rfl
@[simp] theorem afterEff_pc : (afterEff s).pc = s.pc := rfl
@[simp] theorem afterEff_sctlr2El2 : (afterEff s).sctlr2El2 = s.sctlr2El2 := rfl
@[simp] theorem afterEff_sctlr2El1 : (afterEff s).sctlr2El1 = s.sctlr2El1 := rfl
@[simp] theorem afterEff_pendingAlias : (afterEff s).pendingAlias = s.pendingAlias := rfl
@[simp] theorem afterEff_effectWindow : (afterEff s).effectWindow = s.effectWindow := rfl
@[simp] theorem afterEff_tlbEmec : (afterEff s).tlbEmec = s.tlbEmec := rfl
@[simp] theorem afterEff_pendingSErrors : (afterEff s).pendingSErrors = s.pendingSErrors := rfl
@[simp] theorem afterEff_lastRealm : (afterEff s).lastRealm = s.lastRealm := rfl
@[simp] theorem afterEff_mem : (afterEff s).mem = s.mem := rfl
@[simp] theorem afterEff_slotStored : (afterEff s).slotStored = s.slotStored := rfl
@[simp] theorem afterEff_turns : (afterEff s).turns = s.turns := rfl
@[simp] theorem afterEff_draws : (afterEff s).draws = if s.effectWindow.closed then s.draws else s.draws + 1 := rfl

/-! ### afterTurn -/

@[simp] theorem afterTurn_cfg : (afterTurn s).cfg = s.cfg := rfl
@[simp] theorem afterTurn_ctx : (afterTurn s).ctx = s.ctx := rfl
@[simp] theorem afterTurn_x : (afterTurn s).x = s.x := rfl
@[simp] theorem afterTurn_pc : (afterTurn s).pc = s.pc := rfl
@[simp] theorem afterTurn_sctlr2El2 : (afterTurn s).sctlr2El2 = s.sctlr2El2 := rfl
@[simp] theorem afterTurn_sctlr2El1 : (afterTurn s).sctlr2El1 = s.sctlr2El1 := rfl
@[simp] theorem afterTurn_pendingAlias : (afterTurn s).pendingAlias = s.pendingAlias := rfl
@[simp] theorem afterTurn_effectWindow : (afterTurn s).effectWindow = s.effectWindow := rfl
@[simp] theorem afterTurn_tlbEmec : (afterTurn s).tlbEmec = s.tlbEmec := rfl
@[simp] theorem afterTurn_pendingSErrors : (afterTurn s).pendingSErrors = s.pendingSErrors := rfl
@[simp] theorem afterTurn_lastRealm : (afterTurn s).lastRealm = s.lastRealm := rfl
@[simp] theorem afterTurn_mem : (afterTurn s).mem = s.mem := rfl
@[simp] theorem afterTurn_slotStored : (afterTurn s).slotStored = s.slotStored := rfl
@[simp] theorem afterTurn_draws : (afterTurn s).draws = s.draws := rfl
@[simp] theorem afterTurn_turns : (afterTurn s).turns = s.turns.tail := rfl

/-! ### placeWord -/

@[simp] theorem placeWord_cfg (w : InstrWord) : (placeWord w s).cfg = s.cfg := rfl
@[simp] theorem placeWord_ctx (w : InstrWord) : (placeWord w s).ctx = s.ctx := rfl
@[simp] theorem placeWord_x (w : InstrWord) : (placeWord w s).x = s.x := rfl
@[simp] theorem placeWord_pc (w : InstrWord) : (placeWord w s).pc = alignDown s.pc := rfl
@[simp] theorem placeWord_sctlr2El2 (w : InstrWord) : (placeWord w s).sctlr2El2 = s.sctlr2El2 := rfl
@[simp] theorem placeWord_sctlr2El1 (w : InstrWord) : (placeWord w s).sctlr2El1 = s.sctlr2El1 := rfl
@[simp] theorem placeWord_pendingAlias (w : InstrWord) : (placeWord w s).pendingAlias = s.pendingAlias := rfl
@[simp] theorem placeWord_effectWindow (w : InstrWord) : (placeWord w s).effectWindow = s.effectWindow := rfl
@[simp] theorem placeWord_tlbEmec (w : InstrWord) : (placeWord w s).tlbEmec = s.tlbEmec := rfl
@[simp] theorem placeWord_pendingSErrors (w : InstrWord) : (placeWord w s).pendingSErrors = s.pendingSErrors := rfl
@[simp] theorem placeWord_lastRealm (w : InstrWord) : (placeWord w s).lastRealm = s.lastRealm := rfl
@[simp] theorem placeWord_mem (w : InstrWord) : (placeWord w s).mem = s.mem.writeList (alignDown s.pc).toNat (wordBytes w) := rfl
@[simp] theorem placeWord_slotStored (w : InstrWord) : (placeWord w s).slotStored = (s.slotStored && !meetsSlot s.cfg (alignDown s.pc).toNat) := rfl
@[simp] theorem placeWord_turns (w : InstrWord) : (placeWord w s).turns = [] := rfl
@[simp] theorem placeWord_draws (w : InstrWord) : (placeWord w s).draws = s.draws := rfl

end Sys2Proof.Machine
end

