-- ==== Sys2Proof/Laws/Operands.lean ====
section
/-! SUPPORT. The general registers and the NVMem slot: a value written reads back, everything else is as before. -/

namespace Sys2Proof.Machine

theorem readX_of_ge (s : State) {t : Nat} (h : 31 ≤ t) : s.readX t = 0#64 := by
  simp [State.readX, Nat.not_lt.2 h]

theorem readX_writeX_same (s : State) {t : Nat} (h : t < 31) (v : Word) : (s.writeX t v).readX t = v := by
  simp [State.readX, h]

theorem readX_writeX_other (s : State) {t r : Nat} (h : r ≠ t) (v : Word) : (s.writeX t v).readX r = s.readX r := by
  unfold State.readX
  split
  · simp [Ne.symm h]
  · rfl

/-- The zero register discards what is written to it (R34). -/
theorem writeX_of_ge (s : State) {t : Nat} (h : 31 ≤ t) (v : Word) : s.writeX t v = s := by
  have : s.x.setIfInBounds t v = s.x := by
    ext i hi
    simp [show t ≠ i by omega]
  simp [State.writeX, this]

@[simp] theorem readX_advance (s : State) (r : Nat) : s.advance.readX r = s.readX r := rfl
@[simp] theorem readX_afterRead (n : RegName) (s : State) (r : Nat) : (afterRead n s).readX r = s.readX r := rfl
@[simp] theorem readX_afterSlotRead (s : State) (r : Nat) : (afterSlotRead s).readX r = s.readX r := rfl
@[simp] theorem readX_writeSlot (v : Word) (s : State) (r : Nat) : (writeSlot v s).readX r = s.readX r := rfl
@[simp] theorem readX_writeSctlr2El2 (n : RegName) (v : Word) (s : State) (r : Nat) :
    (writeSctlr2El2 n v s).readX r = s.readX r := rfl
@[simp] theorem readX_writeSctlr2El1 (v : Word) (s : State) (r : Nat) :
    (writeSctlr2El1 v s).readX r = s.readX r := rfl

@[simp] theorem length_wordToBytes (o : ByteOrder) (v : Word) : (wordToBytes o v).length = 8 := by
  cases o <;> simp [wordToBytes]

/-- The bytes of a doubleword give it back, in either order. -/
theorem bytesToWord_wordToBytes (o : ByteOrder) (v : Word) : bytesToWord o (wordToBytes o v) = v := by
  have little : littleWord ((List.range 8).map (fun i => v.extractLsb' (8 * i) 8)) = v := by
    simp only [show List.range 8 = [0, 1, 2, 3, 4, 5, 6, 7] from rfl, List.map, littleWord]
    refine BitVec.eq_of_getLsbD_eq fun i hi => ?_
    interval_cases i <;> simp
  cases o
  · exact little
  · simpa [bytesToWord, wordToBytes] using little

/-- With a base that is a multiple of 8 the slot is aligned and does not wrap (R54). -/
theorem slotAddr_bound {cfg : Config} (h : cfg.nvmemBase.toNat % 8 = 0) :
    slotAddr cfg % 8 = 0 ∧ slotAddr cfg + 8 ≤ 2 ^ 64 := by
  have := cfg.nvmemBase.isLt
  simp only [slotAddr, BitVec.toNat_add, BitVec.toNat_ofNat]
  omega

theorem slotRefusal_none_iff (s : State) :
    slotRefusal s = none ↔ s.cfg.nvmemBase.toNat % 8 = 0 ∧ s.ctx.nvmemAdmitted = true := by
  unfold slotRefusal
  split
  · simp_all
  · split <;> simp_all

theorem writeSlot_mem_wf {s : State} (hm : s.mem.wf) (h : s.cfg.nvmemBase.toNat % 8 = 0) (v : Word) :
    (writeSlot v s).mem.wf :=
  Memory.writeList_wf hm _ (by simpa using (slotAddr_bound h).2)

/-- After a store to the slot its cells hold the value's bytes. -/
theorem slotCells_writeSlot (v : Word) (s : State) :
    slotCells (writeSlot v s) = (wordToBytes s.cfg.nvmemByteOrder v).map some := by
  refine List.ext_getElem (by simp [slotCells]) fun i h1 h2 => ?_
  have hi : i < 8 := by simpa [slotCells] using h1
  have := Memory.read_writeList_inside s.mem (slotAddr s.cfg) (wordToBytes s.cfg.nvmemByteOrder v) (i := i) (by simpa)
  simpa [slotCells] using this

/-- What the slot reads as is fixed by its cells alone where all of them have been written. -/
theorem slotValue_of_cells {s : State} {bs : List Byte} (h : slotCells s = bs.map some) (hl : bs.length = 8) :
    slotValue s = bytesToWord s.cfg.nvmemByteOrder bs := by
  have key : ((bs.map some).zip (wordToBytes .little (Config.freeWord s.draws))).map (fun p => p.1.getD p.2) = bs := by
    refine List.ext_getElem (by simp [hl]) fun i h1 h2 => by simp
  rw [slotValue, h, key]

end Sys2Proof.Machine
end

