-- ==== Sys2Proof/Laws/Ops.lean ====
section
/-! SUPPORT. The shared operations of the access forms: what reading and writing SCTLR2_EL2 can give, and every way a
form can complete. -/

namespace Sys2Proof.Machine

/-! ### Draws and the alias window -/

theorem raceWith_none_of_closed {s : State} (n : RegName) (h : s.pendingAlias = none) : raceWith n s = none := by
  simp [raceWith, h]

theorem raceWith_none_of_not_applies {s : State} (n : RegName) (h : aliasApplies s = false) : raceWith n s = none := by
  simp [raceWith, h]

/-- Accesses by one name are in program order: no race where the other name has not written (R62). -/
theorem raceWith_none_of_same {s : State} {n : RegName} {p : PendingAlias} (h : s.pendingAlias = some p)
    (h' : p.writesBy (otherName n) = []) : raceWith n s = none := by
  simp [raceWith, h, h']

theorem raceWith_some {s : State} {n : RegName} {p : PendingAlias} (h : raceWith n s = some p) :
    aliasApplies s = true ∧ s.pendingAlias = some p ∧ p.writesBy (otherName n) ≠ [] := by
  unfold raceWith at h
  split at h
  · rename_i ha
    obtain ⟨hp, hw⟩ := Option.filter_eq_some_iff.1 h
    exact ⟨ha, hp, by simpa using hw⟩
  · cases h

theorem raceWith_eq_some {s : State} {n : RegName} {p : PendingAlias} (ha : aliasApplies s = true)
    (hp : s.pendingAlias = some p) (hw : p.writesBy (otherName n) ≠ []) : raceWith n s = some p := by
  simp [raceWith, ha, hp, hw]

theorem readValue_of_no_race {s : State} {n : RegName} (h : raceWith n s = none) : readValue n s = s.sctlr2El2 := by
  simp [readValue, h]

theorem afterRead_of_no_race {s : State} {n : RegName} (h : raceWith n s = none) : afterRead n s = s := by
  simp [afterRead, drawsAfter, h]

/-- A racing read gives the stored value, the reader's own view, or a write by the other name (R62). -/
theorem readValue_of_race {s : State} {n : RegName} {p : PendingAlias} (h : raceWith n s = some p) :
    readValue n s = s.sctlr2El2 ∨ readValue n s = p.ownView n ∨ readValue n s ∈ p.writesBy (otherName n) := by
  have := pick_mem s.draws s.sctlr2El2 (p.ownView n :: p.writesBy (otherName n))
  simp only [List.mem_cons] at this
  simpa [readValue, h] using this

theorem storedAfter_of_no_race {s : State} {n : RegName} (h : raceWith n s = none) (v : Word) :
    storedAfter n v s = writeFilter s.cfg v := by
  simp [storedAfter, h]

/-- A racing write leaves its own filtered value or the other name's latest (R62). -/
theorem storedAfter_of_race {s : State} {n : RegName} {p : PendingAlias} (h : raceWith n s = some p) (v : Word) :
    storedAfter n v s = writeFilter s.cfg v ∨ storedAfter n v s = p.ownView (otherName n) := by
  have := pick_mem s.draws (writeFilter s.cfg v) [p.ownView (otherName n)]
  simp only [List.mem_cons, List.not_mem_nil, or_false] at this
  simpa [storedAfter, h] using this

theorem windowAfter_of_no_race {s : State} {n : RegName} (h : raceWith n s = none) (v : Word) :
    windowAfter n v s = { s.effectWindow with oldStored := s.sctlr2El2 :: s.effectWindow.oldStored } := by
  simp [windowAfter, h]

/-! ### The ways a form completes -/

/-- A read form that completes reached SCTLR2_EL2, SCTLR2_EL1 or the slot; the rest follows from which. -/
theorem performRead_next {n : RegName} {word : InstrWord} {t : Nat} {r : Route} {s u : State}
    (h : performRead n word t r s = .next u) :
    (r = .sctlr2El2 ∧ u = ((afterRead n s).writeX t (readValue n s)).advance) ∨
    (r = .sctlr2El1 ∧ u = (s.writeX t s.sctlr2El1).advance) ∨
    (r = .nvmem ∧ slotRefusal s = none ∧ u = ((afterSlotRead s).writeX t (slotValue s)).advance) := by
  cases r with
  | undefined => cases h
  | trap target => cases h
  | noEl2 => cases h
  | sctlr2El2 =>
    injection h with h
    exact .inl ⟨rfl, h.symm⟩
  | sctlr2El1 =>
    injection h with h
    exact .inr (.inl ⟨rfl, h.symm⟩)
  | nvmem =>
    simp only [performRead] at h
    split at h
    · cases h
    · rename_i hs
      injection h with h
      exact .inr (.inr ⟨rfl, hs, h.symm⟩)

/-- A write form that completes wrote SCTLR2_EL2, SCTLR2_EL1 or the slot. -/
theorem performWrite_next {n : RegName} {word : InstrWord} {t : Nat} {r : Route} {s u : State}
    (h : performWrite n word t r s = .next u) :
    (r = .sctlr2El2 ∧ u = (writeSctlr2El2 n (s.readX t) s).advance) ∨
    (r = .sctlr2El1 ∧ u = (writeSctlr2El1 (s.readX t) s).advance) ∨
    (r = .nvmem ∧ slotRefusal s = none ∧ u = (writeSlot (s.readX t) s).advance) := by
  cases r with
  | undefined => cases h
  | trap target => cases h
  | noEl2 => cases h
  | sctlr2El2 =>
    injection h with h
    exact .inl ⟨rfl, h.symm⟩
  | sctlr2El1 =>
    injection h with h
    exact .inr (.inl ⟨rfl, h.symm⟩)
  | nvmem =>
    simp only [performWrite] at h
    split at h
    · cases h
    · rename_i hs
      injection h with h
      exact .inr (.inr ⟨rfl, hs, h.symm⟩)

/-- A fault of a read form is the one its route names. -/
theorem performRead_fault {n : RegName} {word : InstrWord} {t : Nat} {r : Route} {s : State} {e : Fault}
    (h : performRead n word t r s = .fault e) :
    (r = .undefined ∧ e = .undefined word) ∨ ∃ target, r = .trap target ∧ e = .sysTrap target 0x18#6 word := by
  cases r with
  | undefined =>
    injection h with h
    exact .inl ⟨rfl, h.symm⟩
  | trap target =>
    injection h with h
    exact .inr ⟨target, rfl, h.symm⟩
  | noEl2 => cases h
  | sctlr2El2 => cases h
  | sctlr2El1 => cases h
  | nvmem =>
    simp only [performRead] at h
    split at h <;> cases h

/-- A fault of a write form is the one its route names. -/
theorem performWrite_fault {n : RegName} {word : InstrWord} {t : Nat} {r : Route} {s : State} {e : Fault}
    (h : performWrite n word t r s = .fault e) :
    (r = .undefined ∧ e = .undefined word) ∨ ∃ target, r = .trap target ∧ e = .sysTrap target 0x18#6 word := by
  cases r with
  | undefined =>
    injection h with h
    exact .inl ⟨rfl, h.symm⟩
  | trap target =>
    injection h with h
    exact .inr ⟨target, rfl, h.symm⟩
  | noEl2 => cases h
  | sctlr2El2 => cases h
  | sctlr2El1 => cases h
  | nvmem =>
    simp only [performWrite] at h
    split at h <;> cases h

/-! ### Routes of a register that is present -/

theorem present_of_present {s : State} (h1 : s.cfg.featSctlr2 = true) (h2 : s.cfg.haveEl2 = true) (r : Route) :
    present s r = r := by
  simp [present, h1, h2]

/-- The closed gate of EL3 only stops an access (R85). -/
theorem el3Gate_stops (s : State) : ∀ r ∈ [Route.noEl2, .sctlr2El2, .sctlr2El1, .nvmem], el3Gate s ≠ r := by
  unfold el3Gate
  split <;> simp

/-- The name SCTLR2_EL2 reaches the register at EL3, and at EL2 unless EL3 has closed the gate (R91 rows 6, 7). -/
theorem routeEl2Name_reaches_iff (s : State) :
    routeEl2Name s = .sctlr2El2 ↔
      s.cfg.featSctlr2 = true ∧ s.cfg.haveEl2 = true ∧
        (s.ctx.el = .el3 ∨ s.ctx.el = .el2 ∧ el3Off s = false) := by
  unfold routeEl2Name present
  cases h1 : s.cfg.featSctlr2 <;> cases h2 : s.cfg.haveEl2 <;> simp
  cases h3 : s.ctx.el <;> simp
  · split <;> simp
  · cases h4 : el3Off s
    · have : sddEarly s = false := by
        simp only [el3Off, Bool.and_eq_false_iff, Bool.not_eq_false'] at h4
        rcases h4 with h4 | h4 <;> simp [sddEarly, h4]
      simp [this]
    · cases sddEarly s
      · simpa using el3Gate_stops s .sctlr2El2 (by simp)
      · simp

end Sys2Proof.Machine
end

