-- ==== Sys2Proof/Laws/Access.lean ====
section
/-! SUPPORT. Where each form's tests lead, in the terms of Safety.lean, and every way a form answers. -/

namespace Sys2Proof.Machine

theorem gateOpen_iff (s : State) : GateOpen s ↔ el3Off s = false := by
  cases h : s.cfg.haveEl3 <;> cases h' : s.ctx.scrSctlr2En <;> simp [GateOpen, el3Off, h, h']

theorem not_gateOpen_iff (s : State) : ¬GateOpen s ↔ s.cfg.haveEl3 = true ∧ s.ctx.scrSctlr2En = false := by
  cases h : s.cfg.haveEl3 <;> cases h' : s.ctx.scrSctlr2En <;> simp [GateOpen, h, h']

/-- The early test of Debug state holds only where the gate is closed and the later test would stop the access too. -/
theorem sddEarly_imp {s : State} (h : sddEarly s = true) :
    el3Off s = true ∧ s.ctx.halted = true ∧ s.ctx.edscrSdd = true := by
  simp only [sddEarly, el3Off, Bool.and_eq_true] at *
  tauto

theorem sddEarly_of_gateOpen {s : State} (h : GateOpen s) : sddEarly s = false := by
  cases h' : sddEarly s
  · rfl
  · exact absurd (sddEarly_imp h').1 (by simp [(gateOpen_iff s).1 h])

theorem raceWith_of_noRace {n : RegName} {s : State} (h : NoRace n s) : raceWith n s = none := by
  rcases h with h | h
  · refine raceWith_none_of_not_applies n ?_
    cases ha : aliasApplies s
    · rfl
    · simp only [aliasApplies, Bool.and_eq_true, beq_iff_eq] at ha
      exact absurd ⟨ha.1.1, ha.1.2, ha.2⟩ h
  · cases hp : s.pendingAlias with
    | none => exact raceWith_none_of_closed n hp
    | some p => exact raceWith_none_of_same hp (h p (by simp [hp]))

theorem aliasApplies_iff (s : State) :
    aliasApplies s = true ↔ s.cfg.featVhe = true ∧ s.ctx.hcrE2h = true ∧ s.ctx.el = .el2 := by
  simp [aliasApplies, and_assoc]

theorem routeEl2Name_of_reaches {s : State} (hp : Present s) (h : El2NameReaches s) :
    routeEl2Name s = .sctlr2El2 :=
  (routeEl2Name_reaches_iff s).2 ⟨hp.1, hp.2, h.imp id (And.imp id (gateOpen_iff s).1)⟩

/-- At EL2 a closed gate stops every form in one of two ways, whatever the early test says (R93). -/
theorem el2_closed_gate {s : State} (h : ¬GateOpen s) (r : Route) :
    (if sddEarly s then .undefined else if el3Off s then el3Gate s else r)
      = if s.ctx.halted && s.ctx.edscrSdd then Route.undefined else .trap .el3 := by
  have hc : el3Off s = true := by simpa [gateOpen_iff] using h
  cases he : sddEarly s
  · simp [hc, el3Gate]
  · simp [(sddEarly_imp he).2]

theorem routeEl1Name_el2 {d : Direction} {s : State} (hp : Present s) (he : s.ctx.el = .el2) (hg : GateOpen s) :
    routeEl1Name d s = if s.ctx.hcrE2h then .sctlr2El2 else .sctlr2El1 := by
  simp [routeEl1Name, present, hp.1, hp.2, he, sddEarly_of_gateOpen hg, (gateOpen_iff s).1 hg]

theorem routeEl1Name_el3 {d : Direction} {s : State} (hp : Present s) (he : s.ctx.el = .el3) :
    routeEl1Name d s = .sctlr2El1 := by
  simp [routeEl1Name, present, hp.1, hp.2, he]

/-- At EL1, past the trap controls, the access goes to the slot or to SCTLR2_EL1 (R92 rows 8 and 9). -/
theorem routeEl1Name_el1 {d : Direction} {s : State} (hp : Present s) (h : El1Unstopped d s) :
    routeEl1Name d s =
      if s.el2Enabled && s.ctx.hcrNv2 && s.ctx.hcrNv1 && s.ctx.hcrNv then .nvmem else .sctlr2El1 := by
  obtain ⟨he, hg, ht⟩ := h
  have h2 := sddEarly_of_gateOpen hg
  have h3 := (gateOpen_iff s).1 hg
  cases hen : s.el2Enabled
  · simp [routeEl1Name, present, hp.1, hp.2, he, h2, h3, hen]
  · obtain ⟨hv, hf, hx, hy⟩ := ht hen
    have hf' : (s.cfg.featFgt && (!s.cfg.haveEl3 || s.ctx.scrFgtEn) && fineGrainedBit d s) = false := by
      rcases hf with hf | hf | hf <;> simp [hf]
    simp only [routeEl1Name, present, hp.1, hp.2, he, h2, h3, hen, hv, hx, hy, Bool.true_and, hf']
    simp

theorem routeEl1Name_nvmem {d : Direction} {s : State} (hp : Present s) (h : El1Unstopped d s) (hn : NvRedirects s) :
    routeEl1Name d s = .nvmem := by
  simp [routeEl1Name_el1 hp h, hn.1, hn.2.1, hn.2.2.1, hn.2.2.2]

theorem routeEl1Name_of_reachesEl1 {d : Direction} {s : State} (hp : Present s) (h : El1NameReachesEl1 d s) :
    routeEl1Name d s = .sctlr2El1 := by
  rcases h with h | ⟨h, hg, h2⟩ | ⟨h, hn⟩
  · exact routeEl1Name_el3 hp h
  · simp [routeEl1Name_el2 hp h hg, h2]
  · rw [routeEl1Name_el1 hp h, if_neg]
    simp only [Bool.and_eq_true]
    tauto

/-- What a form by a name is routed by. -/
def routeOf (n : RegName) (d : Direction) (s : State) : Route :=
  match n with
  | .sctlr2El2 => routeEl2Name s
  | .sctlr2El1 => routeEl1Name d s

theorem exec_read (n : RegName) (t : Nat) (s : State) :
    exec (form n .read t) s = performRead n (encode (form n .read t)) t (routeOf n .read s) s := by
  cases n <;> rfl

theorem exec_write (n : RegName) (t : Nat) (s : State) :
    exec (form n .write t) s = performWrite n (encode (form n .write t)) t (routeOf n .write s) s := by
  cases n <;> rfl

/-- Every instruction is a form. -/
theorem exists_form (i : Instr) : ∃ n d t, i = form n d t := by
  cases i with
  | mrsSctlr2El2 t => exact ⟨.sctlr2El2, .read, t, rfl⟩
  | msrSctlr2El2 t => exact ⟨.sctlr2El2, .write, t, rfl⟩
  | mrsSctlr2El1 t => exact ⟨.sctlr2El1, .read, t, rfl⟩
  | msrSctlr2El1 t => exact ⟨.sctlr2El1, .write, t, rfl⟩

end Sys2Proof.Machine
end

