-- ==== Sys2Proof/Laws/Events.lean ====
section
/-! SUPPORT. What an environment event can do: the guard of the effect rules, and the inversion lemmas of `deliver` and
`runEvent`, the attribute of a Realm access, and the vector EASE selects. -/

namespace Sys2Proof.Machine

/-- The guard of an effect rule, from its three parts (R2, R4, R30). -/
theorem effectsApply_of {s : State} {f : ControlField} (h1 : s.cfg.featSctlr2 = true)
    (h2 : implemented s.cfg f = true) (h3 : s.el2Enabled = true) : effectsApply s f = true := by
  simp [effectsApply, h1, h2, h3]

/-- No effect rule fires while EL2 is not enabled (R4). -/
theorem effectsApply_of_disabled {s : State} (h : s.el2Enabled = false) (f : ControlField) :
    effectsApply s f = false := by
  simp [effectsApply, h]

/-- The one report after which the machine goes on makes an SError pending (R119, R125). -/
theorem deliver_next {rep : Report} {r : AbortedRead} {route : AbortRouting} {s u : State}
    (h : deliver rep r route s = .next u) :
    rep = .async ∧ u = { s with pendingSErrors := s.pendingSErrors ++ [route.serrorTarget] } := by
  cases rep with
  | sync => cases h
  | async => exact ⟨rfl, by cases h; rfl⟩
  | fatal => cases h

/-- Each report is one of the three outcomes of R119, with the vector of R115 in the synchronous one. -/
theorem deliver_cases (rep : Report) (r : AbortedRead) (route : AbortRouting) (s : State) :
    deliver rep r route s =
        .fault (.syncDataAbort r route.syncTarget (easeVector route.syncTarget route.src s)) ∨
      deliver rep r route s = .fault (.fatal r) ∨
      deliver rep r route s = .next { s with pendingSErrors := s.pendingSErrors ++ [route.serrorTarget] } := by
  cases rep with
  | sync => exact .inl rfl
  | async => exact .inr (.inr rfl)
  | fatal => exact .inr (.inl rfl)

/-- The vector EASE selects under its guard (R115). -/
theorem easeVector_el2 {s : State} (h : effectsApply s .ease = true) (src : VectorSource) :
    easeVector .el2 src s =
      some (s.ctx.vbarEl2 + if effSeen s .ease then serrorOffset src else syncOffset src) := by
  simp [easeVector, h, vectorAddress]

/-- EASE speaks of aborts taken to EL2 only (R115). -/
theorem easeVector_other {target : EL} (h : target ≠ .el2) (src : VectorSource) (s : State) :
    easeVector target src s = none := by
  simp [easeVector, h]

/-- The attribute of a Realm access outside the guard of R58: MEC is not enabled. -/
theorem realmAttribute_of_not_effectsApply {s : State} (h : effectsApply s .emec = false) (tr : Option Nat) :
    realmAttribute tr s = (false, s.draws) := by
  simp [realmAttribute, h]

/-- The attribute of a Realm access where the controls do not apply to the current level (R3): a draw. -/
theorem realmAttribute_of_not_controlsApply {s : State} (h : effectsApply s .emec = true)
    (hc : controlsApply s s.ctx.el = false) (tr : Option Nat) :
    realmAttribute tr s = (pick s.draws false [true], s.draws + 1) := by
  simp [realmAttribute, h, hc]

/-- The attribute of a controlled Realm access that hits no remembered copy (R59). -/
theorem realmAttribute_of_no_hit {s : State} (h : effectsApply s .emec = true) (hc : controlsApply s s.ctx.el = true)
    {tr : Option Nat} (ht : tlbHit s tr = none) : realmAttribute tr s = (effSeen s .emec, (afterEff s).draws) := by
  simp [realmAttribute, h, hc, ht]

/-- The attribute of a controlled Realm access that hits a remembered copy (R60). -/
theorem realmAttribute_of_hit {s : State} (h : effectsApply s .emec = true) (hc : controlsApply s s.ctx.el = true)
    {tr : Option Nat} {c : TlbEntry} (ht : tlbHit s tr = some c) :
    realmAttribute tr s =
      (pick (afterEff s).draws (effSeen s .emec) [c.effEmec, c.mecEnabled], (afterEff s).draws + 1) := by
  simp [realmAttribute, h, hc, ht]

/-- An External abort in the two regimes is one report, delivered at a state that differs in the draw counter alone. -/
theorem onExternalAbort_delivers {r : AbortedRead} (hr : r.regime ≠ .other) (route : AbortRouting) (s : State) :
    ∃ rep n, onExternalAbort r route s = deliver rep r route { s with draws := n } := by
  simp only [onExternalAbort, hr, if_false]
  (repeat' split) <;> exact ⟨_, _, rfl⟩

/-- Everything an event that answers a next state can do: a reset or a change of the inputs, one of the environment's own
writes, or a change of the hidden items, the pending SErrors and the model's records alone. -/
theorem runEvent_next {e : Event} {s u : State} (h : runEvent e s = .next u) :
    (∃ r, e = .reset r ∧ onReset r s = .next u) ∨ (∃ c, e = .setInputs c ∧ onSetInputs c s = .next u) ∨
    (∃ t v, e = .setX t v ∧ u = s.writeX t v) ∨ (∃ v, e = .setSctlr2El1 v ∧ u = { s with sctlr2El1 := v }) ∨
    (∃ v, e = .setPc v ∧ u = { s with pc := v }) ∨ (∃ v, e = .slotStore v ∧ u = writeSlot v s) ∨
    u = { s with
      pendingAlias := u.pendingAlias, effectWindow := u.effectWindow, tlbEmec := u.tlbEmec
      pendingSErrors := u.pendingSErrors, lastRealm := u.lastRealm, draws := u.draws } := by
  cases e with
  | reset r => exact .inl ⟨r, rfl, h⟩
  | setInputs c => exact .inr (.inl ⟨c, rfl, h⟩)
  | setX t v => cases h; exact .inr (.inr (.inl ⟨t, v, rfl, rfl⟩))
  | setSctlr2El1 v => cases h; exact .inr (.inr (.inr (.inl ⟨v, rfl, rfl⟩)))
  | setPc v => cases h; exact .inr (.inr (.inr (.inr (.inl ⟨v, rfl, rfl⟩))))
  | slotStore v =>
    simp only [runEvent, onSlotStore] at h
    split at h <;> cases h
    exact .inr (.inr (.inr (.inr (.inr (.inl ⟨v, rfl, rfl⟩)))))
  | sync => cases h; exact .inr (.inr (.inr (.inr (.inr (.inr rfl)))))
  | tlbInvalidate => cases h; exact .inr (.inr (.inr (.inr (.inr (.inr rfl)))))
  | tlbFill translation => cases h; exact .inr (.inr (.inr (.inr (.inr (.inr rfl)))))
  | raiseSError target => cases h; exact .inr (.inr (.inr (.inr (.inr (.inr rfl)))))
  | realmAccess regime translation => cases h; exact .inr (.inr (.inr (.inr (.inr (.inr rfl)))))
  | externalAbort r route =>
    iterate 6 right
    by_cases hr : r.regime = .other
    · simp only [runEvent, onExternalAbort, hr, if_true] at h
      cases h
    · obtain ⟨rep, n, hd⟩ := onExternalAbort_delivers hr route s
      rw [runEvent, hd] at h
      rw [(deliver_next h).2]
  | syncExternalAbort target src =>
    simp only [runEvent, onSyncExternalAbort, raise] at h
    split at h <;> cases h
  | takeSError index sp =>
    iterate 6 right
    simp only [runEvent, onTakeSError, raise] at h
    (repeat' split at h) <;> cases h <;> rfl
  | access128 r word higherPriority =>
    simp only [runEvent, onAccess128, raiseSysTrap, raise] at h
    (repeat' split at h) <;> cases h

end Sys2Proof.Machine
end

