-- ==== Sys2Proof/Laws/PerInstr.lean ====
section
/-! SUPPORT. Families of facts stated for every instruction, one lemma per constructor. -/

namespace Sys2Proof.Laws.WordRoundTrip

/-- Decoding the word of a well-formed instruction gives it back. -/
def Statement (i : Instr) : Prop := i.WellFormed → decodeWord (encode i) = some i

theorem mrsSctlr2El2 (t : Nat) : Statement (.mrsSctlr2El2 t) := by
  intro h
  have h : t < 32 := h
  interval_cases t <;> rfl

theorem msrSctlr2El2 (t : Nat) : Statement (.msrSctlr2El2 t) := by
  intro h
  have h : t < 32 := h
  interval_cases t <;> rfl

theorem mrsSctlr2El1 (t : Nat) : Statement (.mrsSctlr2El1 t) := by
  intro h
  have h : t < 32 := h
  interval_cases t <;> rfl

theorem msrSctlr2El1 (t : Nat) : Statement (.msrSctlr2El1 t) := by
  intro h
  have h : t < 32 := h
  interval_cases t <;> rfl

end Sys2Proof.Laws.WordRoundTrip
end

