-- ==== Sys2Proof/Laws/Step.lean ====
section
/-! SUPPORT. Fetch and step: what a placed word fetches, and the two kinds of step. -/

namespace Sys2Proof.Machine

/-- The bytes of a word give it back (R53). -/
theorem wordOfBytes_wordBytes (w : InstrWord) :
    wordOfBytes (w.extractLsb' 0 8) (w.extractLsb' 8 8) (w.extractLsb' 16 8) (w.extractLsb' 24 8) = w := by
  refine BitVec.eq_of_getLsbD_eq fun i hi => ?_
  simp only [wordOfBytes, BitVec.getLsbD_append, BitVec.getLsbD_extractLsb']
  interval_cases i <;> rfl

/-- Decoding a word's bytes is decoding the word. -/
theorem decode_wordBytes (w : InstrWord) (rest : List Byte) :
    decode (wordBytes w ++ rest) =
      match decodeWord w with
      | some i => .ok (i, rest)
      | none => .error (.notInScope w) := by
  cases hw : decodeWord w <;>
    simp only [wordBytes, List.cons_append, List.nil_append, decode, wordOfBytes_wordBytes, hw]

/-- What a fetch of a word that stands at the program counter gives (R53, R74, R77). -/
theorem fetchInstr_word {s : State} {w : InstrWord} (h : FetchesWord s w) :
    fetchInstr s =
      match decodeWord w with
      | some i => .ok i
      | none => .error (.notInScope w) := by
  obtain ⟨ha, hs, h0, h1, h2, h3⟩ := h
  have hc : ¬(s.slotStored && meetsSlot s.cfg s.pc.toNat) = true := by
    rcases hs with hs | hs <;> simp [hs]
  have hb : fetchBytes s = .ok (wordBytes w) := by
    simp [fetchBytes, ha, hc, h0, h1, h2, h3, wordBytes]
  have hd := decode_wordBytes w []
  rw [List.append_nil] at hd
  cases hw : decodeWord w <;> simp only [fetchInstr, hb, hd, hw]

@[simp] theorem fetchInstr_afterTurn (s : State) : fetchInstr (afterTurn s) = fetchInstr s := rfl

/-- A turn of the environment runs its event (R137). -/
theorem step_event {s : State} {e : Event} {ts : List Turn} (h : s.turns = .environment e :: ts) :
    step s = runEvent e { s with turns := ts } := by
  simp [step, takeTurn, h]

/-- A turn of the PE runs an instruction. -/
theorem step_pe {s : State} (h : PeTurn s) : step s = runInstr (afterTurn s) := by
  unfold step takeTurn afterTurn
  rcases h with h | h
  · rw [h]
    exact congrArg runInstr (by rw [List.tail_nil, ← h])
  · cases ht : s.turns with
    | nil => rw [ht] at h; cases h
    | cons a ts =>
      rw [ht] at h
      cases h
      rfl

/-- A turn of the PE is exec of the instruction fetched. -/
theorem step_fetch {s : State} (h : PeTurn s) :
    step s = match fetchInstr s with
      | .ok i => exec i (afterTurn s)
      | .error e => .refused e := by
  rw [step_pe h]
  cases hf : fetchInstr s <;> simp only [runInstr, fetchInstr_afterTurn, hf]

/-- Everything a step that answers a next state can be: an event, or a fetched instruction. -/
theorem step_next {s u : State} (h : step s = .next u) :
    (∃ e ts, s.turns = .environment e :: ts ∧ runEvent e { s with turns := ts } = .next u) ∨
    (PeTurn s ∧ ∃ i, fetchInstr s = .ok i ∧ exec i (afterTurn s) = .next u) := by
  have pe : PeTurn s → PeTurn s ∧ ∃ i, fetchInstr s = .ok i ∧ exec i (afterTurn s) = .next u := fun hp => by
    rw [step_fetch hp] at h
    split at h
    · rename_i i hi
      exact ⟨hp, i, hi, h⟩
    · cases h
  cases ht : s.turns with
  | nil => exact .inr (pe (.inl ht))
  | cons a ts =>
    cases a with
    | pe => exact .inr (pe (.inr (by rw [ht]; rfl)))
    | environment e => exact .inl ⟨e, ts, rfl, by rw [← step_event ht]; exact h⟩

end Sys2Proof.Machine
end

