-- ==== Sys2Proof/Tests/Slice0.lean ====
section
/-! SUPPORT. The model's own tests, with expected results from the tables of spec/95_test_vectors.md, and one witness for
the hypotheses of each statement of Certificates/Slice0/Obligations.lean, a clause at a time. -/

open Sys2Proof Sys2Proof.Machine

namespace Sys2Proof.Tests

/-! ### Start states: the conventions at the head of 95_test_vectors.md -/

/-- The inputs of the conventions, at EL2. -/
def baseCtx : Ctx where
  el := .el2
  pstateA := true
  el2Enabled := true
  halted := false
  edscrSdd := false
  hcrxEnabled := true
  hcrxSctlr2En := true
  hcrE2h := false
  hcrTge := false
  hcrNv := false
  hcrNv1 := false
  hcrNv2 := false
  hcrTvm := false
  hcrTrvm := false
  scrSctlr2En := true
  scrFgtEn := false
  hfgrtrSctlrEl1 := false
  hfgwtrSctlrEl1 := false
  vbarEl2 := 0x80010800#64
  esrEl2Ec := 0#6
  nvmemAdmitted := true

/-- A start state at EL2. -/
def base : State where
  cfg := resetConfig
  ctx := baseCtx
  x := (Vector.replicate 31 0#64).setIfInBounds 1 0xFFFFFFFFFFFFFF25#64
  pc := 0x1000#64
  sctlr2El2 := 0x40#64
  sctlr2El1 := 0x12#64
  pendingAlias := none
  effectWindow := ⟨[], []⟩
  tlbEmec := []
  pendingSErrors := []
  lastRealm := none
  mem := []
  slotStored := false
  turns := []
  draws := 0

/-- Changes the inputs. -/
def inCtx (f : Ctx → Ctx) (s : State) : State := { s with ctx := f s.ctx }

/-- Changes the implementation. -/
def inCfg (f : Config → Config) (s : State) : State := { s with cfg := f s.cfg }

def atEl (el : EL) (s : State) : State := inCtx (fun c => { c with el := el }) s

/-- `SCR_EL3.SCTLR2En = 0`. -/
def closed (s : State) : State := inCtx (fun c => { c with scrSctlr2En := false }) s

/-- `Halted()` and `EDSCR.SDD = 1`. -/
def debug (s : State) : State := inCtx (fun c => { c with halted := true, edscrSdd := true }) s

/-- `HCR_EL2.<NV2,NV1,NV> = '111'`. -/
def nv (s : State) : State := inCtx (fun c => { c with hcrNv2 := true, hcrNv1 := true, hcrNv := true }) s

/-- FEAT_VHE and `HCR_EL2.E2H = 1`. -/
def vhe (s : State) : State :=
  inCfg (fun c => { c with featVhe := true }) (inCtx (fun c => { c with hcrE2h := true }) s)

/-- EL2Enabled() = false. -/
def noEl2Enabled (s : State) : State := inCtx (fun c => { c with el2Enabled := false }) s

/-- HaveEL(EL3) = false. -/
def noEl3 (s : State) : State := inCfg (fun c => { c with haveEl3 := false }) s

def absent (s : State) : State := inCfg (fun c => { c with featSctlr2 := false }) s

def noEl2 (s : State) : State := inCfg (fun c => { c with haveEl2 := false }) s

/-- FEAT_FGT, `SCR_EL3.FGTEn = 1`, `HFGRTR_EL2.SCTLR_EL1 = 1`, `HFGWTR_EL2.SCTLR_EL1 = 0` (B5). -/
def fgt (s : State) : State :=
  inCfg (fun c => { c with featFgt := true }) (inCtx (fun c => { c with scrFgtEn := true, hfgrtrSctlrEl1 := true }) s)

/-- An alias window that holds one write by a name. -/
def oneWrite (n : RegName) (s : State) : State :=
  { s with pendingAlias := some ((⟨0x2#64, [], []⟩ : PendingAlias).record n s.sctlr2El2) }

/-- An IMPLEMENTATION DEFINED 128-bit System register. -/
def reg128 : SysReg := ⟨0b11#2, 0b011#3, 0b1111#4, 0b0000#4, 0b000#3⟩

/-- At EL0 under AppliesAtEL0, with one 128-bit register (F1). -/
def host0 (s : State) : State :=
  inCfg (fun c => { c with impdef128Sysregs := [reg128] }) (inCtx (fun c => { c with hcrTge := true }) (vhe (atEl .el0 s)))

/-- A read whose kind both fields apply to, and one whose error cannot be taken synchronously. -/
def readN : AbortedRead := ⟨.normal, .el2, 3, 0⟩
def readD : AbortedRead := ⟨.device, .el20, 3, 1⟩

def aborting (n d : Bool) (s : State) : State :=
  inCfg (fun c => { c with
    asyncErrAppliesN := [(3, true)], asyncErrAppliesD := [(3, true)], syncAbortImpossible := [(readN, n), (readD, d)] }) s

/-- Both kinds of report taken to EL2, the synchronous one from EL2 using SP_ELx. -/
def toEl2 : AbortRouting := ⟨.el2, .sameElSpx, .el2⟩

/-! ### Looking at an outcome -/

/-- The outcome is a next state with this property. -/
def nextAnd (p : State → Bool) : Res → Bool
  | .next s => p s
  | .fault _ => false
  | .refused _ => false

theorem exists_next {p : State → Bool} {r : Res} (h : nextAnd p r = true) : ∃ u, r = .next u ∧ p u = true := by
  cases r with
  | next u => exact ⟨u, rfl, h⟩
  | fault e => cases h
  | refused e => cases h

def faultIs (e : Fault) : Res → Bool
  | .next _ => false
  | .fault f => f == e
  | .refused _ => false

def refusalIs (e : Refusal) : Res → Bool
  | .next _ => false
  | .fault _ => false
  | .refused f => f == e

theorem fault_of_faultIs {e : Fault} {r : Res} (h : faultIs e r = true) : r = .fault e := by
  cases r with
  | next u => cases h
  | fault f => rw [eq_of_beq (show (f == e) = true from h)]
  | refused f => cases h

/-! ### WellFormed, decode and encode (R71 to R75; 95 section 2.1) -/

theorem test_wellFormed_refuses_register_32 :
    ¬(Instr.mrsSctlr2El2 32).WellFormed ∧ ¬(Instr.msrSctlr2El2 32).WellFormed ∧
    ¬(Instr.mrsSctlr2El1 32).WellFormed ∧ ¬(Instr.msrSctlr2El1 32).WellFormed ∧
    (Instr.msrSctlr2El1 31).WellFormed := by decide

theorem test_decode_mrs_sctlr2_el2 :
    decodeWord 0b11010101001111000001000001100010#32 = some (.mrsSctlr2El2 2) ∧
    decodeWord 0b11010101001111000001000001111111#32 = some (.mrsSctlr2El2 31) := by decide

theorem test_decode_msr_sctlr2_el2 :
    decodeWord 0b11010101000111000001000001110001#32 = some (.msrSctlr2El2 17) ∧
    decodeWord 0b11010101000111000001000001100000#32 = some (.msrSctlr2El2 0) := by decide

theorem test_decode_mrs_sctlr2_el1 :
    decodeWord 0b11010101001110000001000001100011#32 = some (.mrsSctlr2El1 3) ∧
    decodeWord 0b11010101001110000001000001111111#32 = some (.mrsSctlr2El1 31) := by decide

theorem test_decode_msr_sctlr2_el1 :
    decodeWord 0b11010101000110000001000001100001#32 = some (.msrSctlr2El1 1) ∧
    decodeWord 0b11010101000110000001000001111111#32 = some (.msrSctlr2El1 31) := by decide

/-- The neighbours of 95 section 2.1: one field of the word differs. -/
theorem test_decode_refuses_neighbours :
    [0xD53C1040#32, 0xD53C1080#32, 0xD53C1160#32, 0xD53C2060#32, 0xD53D1060#32, 0xD5341060#32, 0xD52C1060#32].all
      (fun w => decodeWord w == none) = true := by decide

theorem test_decode_refuses_short_bytes : decode [0x60#8, 0x10#8, 0x3C#8] = .error .truncated := by rfl

theorem test_rows_do_not_overlap :
    opRows.Pairwise (fun p q => (p.pattern ^^^ q.pattern) &&& p.mask &&& q.mask ≠ 0#32) := by decide

theorem test_encode_words :
    encode (.mrsSctlr2El2 30) = 0xD53C107E#32 ∧ encode (.msrSctlr2El2 1) = 0xD51C1061#32 ∧
    encode (.mrsSctlr2El1 0) = 0xD5381060#32 ∧ encode (.msrSctlr2El1 31) = 0xD518107F#32 ∧
    encodeBytes (.mrsSctlr2El2 30) = [0x7E#8, 0x10#8, 0x3C#8, 0xD5#8] := by decide

theorem test_decodeTableWord : decodeTableWord 32 0xD51C107F = some (.msrSctlr2El2 31) := by decide

/-! ### The write filter and the effective values (95 sections 2.2, 2.3, 2.8) -/

/-- W1 to W10 and Z3. -/
theorem test_write_filter :
    [0xFFFFFFFFFFFFFFFF#64, 0x5#64, 0#64, 0xDEADBEEF000000AA#64, 0x55#64, 0x80#64].map (writeFilter resetConfig)
      = [0x7E#64, 0x4#64, 0#64, 0x2A#64, 0x54#64, 0#64] ∧
    writeFilter { resetConfig with res0StorageMask := 0xFFFFFFFFFFFFFFFF#64 } 0xFFFFFFFFFFFFFFFF#64
      = 0xFFFFFFFFFFFFFFFF#64 ∧
    writeFilter { resetConfig with implEmec := false, implEnIdcp128 := false } 0x7F#64 = 0x3C#64 ∧
    writeFilter { resetConfig with res0StorageMask := 0xFFFFFFFF00000000#64 } 0xDEADBEEF000000AA#64
      = 0xDEADBEEF0000002A#64 ∧
    writeFilter { resetConfig with
      implEnIdcp128 := false, implEase := false, implEnAnerr := false, implEnAderr := false, implNmea := false
      implEmec := false } 0xFFFFFFFFFFFFFFFF#64 = 0#64 ∧
    writeFilter { resetConfig with res0StorageMask := 1#64 } 0xFFFFFFFFFFFFFFFF#64 = 0x7F#64 := by decide

/-- The one-hot table of 95 section 2.2. -/
theorem test_field_positions :
    allFields.map (fieldMask resetConfig) = [0x40#64, 0x20#64, 0x10#64, 0x8#64, 0x4#64, 0x2#64] := by decide

/-- E2 and E3 (whatever the FORCE_ONE conditions are), E1 and E4 for the fields without one. -/
theorem test_effective_values :
    allFields.map (eff resetConfig (closed base).inputs 0x7E#64) = [false, false, false, false, false, false] ∧
    [ControlField.enIdcp128, .ease, .nmea, .emec].map (eff resetConfig base.inputs 0x7E#64) = [true, true, true, true] ∧
    [ControlField.enIdcp128, .ease, .nmea, .emec].map (eff (noEl3 base).cfg (closed base).inputs 0x7E#64)
      = [true, true, true, true] := by decide

/-! ### Routing (95 sections 2.4 and 2.5) -/

/-- A1 to A14. -/
theorem test_routes_of_el2_name :
    ∀ p ∈ [(atEl .el0 base, Route.undefined), (nv (atEl .el1 base), .trap .el2), (atEl .el1 base, .undefined),
        (noEl2Enabled (nv (atEl .el1 base)), .undefined), (base, .sctlr2El2), (closed base, .trap .el3),
        (debug (closed base), .undefined),
        (inCfg (fun c => { c with el3TrapPriorityWhenSdd := true }) (debug (closed base)), .undefined),
        (inCtx (fun c => { c with halted := true }) (closed base), .trap .el3), (noEl3 (closed base), .sctlr2El2),
        (closed (atEl .el3 base), .sctlr2El2), (noEl2Enabled (atEl .el3 base), .sctlr2El2),
        (absent (atEl .el3 base), .undefined), (noEl2 base, .noEl2)],
      routeEl2Name p.1 = p.2 := by decide

/-- The starts of B13 and B14 but for the trap priority. -/
def b13 : State := inCtx (fun c => { c with hcrTrvm := true }) (debug (closed (atEl .el1 base)))

/-- B1 to B14: start, outcome of the read, outcome of the write. -/
theorem test_routes_of_el1_name_trapped :
    ∀ p ∈ [(atEl .el0 base, Route.undefined, Route.undefined), (atEl .el1 base, .sctlr2El1, .sctlr2El1),
        (inCtx (fun c => { c with hcrTrvm := true }) (atEl .el1 base), .trap .el2, .sctlr2El1),
        (inCtx (fun c => { c with hcrTvm := true }) (atEl .el1 base), .sctlr2El1, .trap .el2),
        (fgt (atEl .el1 base), .trap .el2, .sctlr2El1),
        (inCtx (fun c => { c with scrFgtEn := false }) (fgt (atEl .el1 base)), .sctlr2El1, .sctlr2El1),
        (noEl3 (inCtx (fun c => { c with scrFgtEn := false }) (fgt (atEl .el1 base))), .trap .el2, .sctlr2El1),
        (inCfg (fun c => { c with featFgt := false }) (fgt (atEl .el1 base)), .sctlr2El1, .sctlr2El1),
        (inCtx (fun c => { c with hcrxSctlr2En := false }) (atEl .el1 base), .trap .el2, .trap .el2),
        (inCtx (fun c => { c with hcrxEnabled := false }) (atEl .el1 base), .trap .el2, .trap .el2),
        (closed (atEl .el1 base), .trap .el3, .trap .el3), (debug (closed (atEl .el1 base)), .undefined, .undefined),
        (b13, .trap .el2, .undefined),
        (inCfg (fun c => { c with el3TrapPriorityWhenSdd := true }) b13, .undefined, .undefined)],
      routeEl1Name .read p.1 = p.2.1 ∧ routeEl1Name .write p.1 = p.2.2 := by decide

/-- B15 to B27. -/
theorem test_routes_of_el1_name_reaching :
    ∀ p ∈ [(inCtx (fun c => { c with hcrxSctlr2En := false }) (closed (atEl .el1 base)), Route.trap .el2),
        (nv (atEl .el1 base), .nvmem), (inCtx (fun c => { c with hcrNv1 := false }) (nv (atEl .el1 base)), .sctlr2El1),
        (noEl2Enabled (nv (atEl .el1 base)), .sctlr2El1),
        (noEl2Enabled (inCtx (fun c => { c with hcrTrvm := true, hcrTvm := true, hcrxSctlr2En := false })
          (atEl .el1 base)), .sctlr2El1),
        (noEl2Enabled (closed (atEl .el1 base)), .trap .el3), (vhe base, .sctlr2El2), (base, .sctlr2El1),
        (closed (vhe base), .trap .el3), (debug (closed (vhe base)), .undefined), (noEl3 (vhe base), .sctlr2El2),
        (vhe (atEl .el3 base), .sctlr2El1), (absent (atEl .el1 base), .undefined)],
      routeEl1Name .read p.1 = p.2 ∧ routeEl1Name .write p.1 = p.2 := by decide

/-! ### One step of each form (95 section 3) -/

/-- P1, step 2. -/
theorem test_mrs_sctlr2_el2_reads_stored_value :
    nextAnd (fun u => u.readX 0 == 0x24#64 && u.sctlr2El2 == 0x24#64 && u.pc == 0x1004#64)
      (exec (.mrsSctlr2El2 0) { base with sctlr2El2 := 0x24#64 }) = true := by decide

/-- P3. -/
theorem test_mrs_sctlr2_el2_traps_from_guest_hypervisor :
    faultIs (.sysTrap .el2 0x18#6 0xD53C1060#32)
      (exec (.mrsSctlr2El2 0) (nv (atEl .el1 base))) = true := by decide

/-- P1, step 1. -/
theorem test_msr_sctlr2_el2_filters :
    nextAnd (fun u => u.sctlr2El2 == 0x24#64 && u.readX 1 == 0xFFFFFFFFFFFFFF25#64 && u.pc == 0x1004#64 &&
        u.effectWindow.oldStored == [0x40#64] && u.pendingAlias == none)
      (exec (.msrSctlr2El2 1) base) = true := by decide

/-- P5 and P5c: `MSR SCTLR2_EL2, xzr` with SCR_EL3.SCTLR2En = 0, at EL2 and at EL3. -/
theorem test_msr_sctlr2_el2_gate_of_el3 :
    faultIs (.sysTrap .el3 0x18#6 0xD51C107F#32) (exec (.msrSctlr2El2 31) (closed base)) = true ∧
    nextAnd (fun u => u.sctlr2El2 == 0#64) (exec (.msrSctlr2El2 31) (closed (atEl .el3 base))) = true := by decide

/-- P2, step 3: in the window of its own name's write the read gives the written value. -/
theorem test_mrs_sctlr2_el1_reads_alias :
    nextAnd (fun u => u.readX 2 == 0x40#64 && u.readX 1 == 0xFFFFFFFFFFFFFF25#64)
      (exec (.mrsSctlr2El1 2) (oneWrite .sctlr2El1 (vhe base))) = true := by decide

/-- P4, step 2, with bytes that show the order. -/
theorem test_mrs_sctlr2_el1_reads_slot :
    nextAnd (fun u => u.readX 3 == 0x0102030405060708#64)
      (exec (.mrsSctlr2El1 3) { nv (atEl .el1 base) with
        mem := (Memory.writeList [] 0x90000278 [8#8, 7#8, 6#8, 5#8, 4#8, 3#8, 2#8, 1#8]) }) = true := by decide

/-- P2, step 1. -/
theorem test_msr_sctlr2_el1_writes_alias :
    nextAnd (fun u => u.sctlr2El2 == 0x24#64 && u.sctlr2El1 == 0x12#64 &&
        u.pendingAlias == some ⟨0x40#64, [], [0x24#64]⟩)
      (exec (.msrSctlr2El1 1) (vhe base)) = true := by decide

/-- P4, step 1, and the big-endian slot. -/
theorem test_msr_sctlr2_el1_writes_slot :
    nextAnd (fun u => u.mem.read 0x90000278 == some 0x25#8 && u.mem.read 0x9000027F == some 0xFF#8 &&
        u.sctlr2El1 == 0x12#64 && u.sctlr2El2 == 0x40#64)
      (exec (.msrSctlr2El1 1) (nv (atEl .el1 base))) = true ∧
    nextAnd (fun u => u.mem.read 0x90000278 == some 0xFF#8 && u.mem.read 0x9000027F == some 0x25#8)
      (exec (.msrSctlr2El1 1) (inCfg (fun c => { c with nvmemByteOrder := .big }) (nv (atEl .el1 base)))) = true := by
  decide

/-- A placed word is the first instruction after reset. -/
theorem test_first_step_after_reset :
    nextAnd (fun u => u.pc == 4#64 && u.readX 1 == 0#64) (step (State.reset.withFetchWord 32 0xD53C1060)) = true := by
  decide

/-! ### The fields (95 section 2.7) and the records of general knowledge (95 section 2.6, R116) -/

/-- F1, F2, F3, F4, F5. -/
theorem test_enIdcp128 :
    faultIs (.sysTrap .el2 0x14#6 0#32) (runEvent (.access128 reg128 0#32 false) (host0 { base with sctlr2El2 := 0#64 }))
      = true ∧
    refusalIs (.access128NotTrapped reg128) (runEvent (.access128 reg128 0#32 false) (host0 base)) = true ∧
    faultIs (.sysTrap .el2 0x14#6 0#32) (runEvent (.access128 reg128 0#32 false) (closed (host0 base))) = true ∧
    refusalIs (.access128OutsideControl reg128) (runEvent (.access128 reg128 0#32 false)
      (inCtx (fun c => { c with hcrTge := false }) (host0 { base with sctlr2El2 := 0#64 }))) = true ∧
    refusalIs (.access128Disabled reg128) (runEvent (.access128 reg128 0#32 false)
      (atEl .el2 (host0 { base with sctlr2El2 := 0#64 }))) = true := by decide

/-- F6 to F9. -/
theorem test_ease :
    faultIs (.syncExternalAbort 0x80010A00#64)
      (runEvent (.syncExternalAbort .el2 .sameElSpx) { base with sctlr2El2 := 0#64 }) = true ∧
    faultIs (.syncExternalAbort 0x80010B80#64)
      (runEvent (.syncExternalAbort .el2 .sameElSpx) { base with sctlr2El2 := 0x20#64 }) = true ∧
    faultIs (.syncExternalAbort 0x80010D80#64)
      (runEvent (.syncExternalAbort .el2 .lowerAArch64) { base with sctlr2El2 := 0x20#64 }) = true ∧
    faultIs (.syncExternalAbort 0x80010C00#64)
      (runEvent (.syncExternalAbort .el2 .lowerAArch64) { base with sctlr2El2 := 0#64 }) = true ∧
    faultIs (.syncExternalAbort 0x80010A00#64)
      (runEvent (.syncExternalAbort .el2 .sameElSpx) (closed { base with sctlr2El2 := 0x20#64 })) = true := by decide

/-- F10, F12, F14 and F16; the gate of EL3 is closed, which makes the field 0 whatever FORCE_ONE is, and EASE 0 as well
(F9). -/
theorem test_abort_reports :
    faultIs (.syncDataAbort readN .el2 (some 0x80010A00#64))
      (runEvent (.externalAbort readN toEl2) (closed (aborting false false base))) = true ∧
    faultIs (.fatal readN) (runEvent (.externalAbort readN toEl2) (closed (aborting true false base))) = true ∧
    faultIs (.syncDataAbort readD .el3 none)
      (runEvent (.externalAbort readD { toEl2 with syncTarget := .el3 }) (closed (aborting true false base))) = true ∧
    refusalIs (.abortOutsideRegimes { readN with regime := .other })
      (runEvent (.externalAbort { readN with regime := .other } toEl2) (aborting false false base)) = true := by decide

/-- F7 for a Data Abort: the vector of the report when EASE is 1. -/
theorem test_abort_vector_under_ease :
    faultIs (.syncDataAbort readN .el2 (some 0x80010B80#64))
      (deliver .sync readN toEl2 { base with sctlr2El2 := 0x20#64 }) = true := by decide

/-- P6, step 3: the environment supplies `x[1] = 0x24` before the write; register 31 discards. -/
theorem test_environment_supplies_register :
    nextAnd (fun u => u.readX 1 == 0x24#64) (step { base with turns := [.environment (.setX 1 0x24#64)] }) = true ∧
    nextAnd (fun u => u == base) (step { base with turns := [.environment (.setX 31 0x24#64)] }) = true := by decide

/-- P2b: a Sync between two forms; the first step runs the form and leaves the Sync to come. -/
theorem test_sync_between_two_forms :
    nextAnd (fun u => u.sctlr2El2 == 0x24#64 && u.pc == 0x1004#64 && u.turns == [.environment .sync, .pe])
      (step { base with
        mem := Memory.writeList [] 0x1000 (encodeBytes (.msrSctlr2El2 1)), turns := [.pe, .environment .sync, .pe] })
      = true := by decide

/-- F17 to F21; the vector is that of R116 for the same level using SP_ELx. -/
theorem test_nmea :
    nextAnd (fun u => u.pendingSErrors == [.el2])
      (runEvent (.takeSError 0 .spx) { base with sctlr2El2 := 0#64, pendingSErrors := [.el2] }) = true ∧
    faultIs (.serror .el2 0x80010B80#64)
      (runEvent (.takeSError 0 .spx) { base with sctlr2El2 := 4#64, pendingSErrors := [.el2] }) = true ∧
    nextAnd (fun u => u.pendingSErrors == [.el2])
      (runEvent (.takeSError 0 .spx) (closed { base with sctlr2El2 := 4#64, pendingSErrors := [.el2] })) = true ∧
    faultIs (.serror .el2 0x80010B80#64) (runEvent (.takeSError 0 .spx) (inCtx (fun c => { c with pstateA := false })
      { base with sctlr2El2 := 0#64, pendingSErrors := [.el2] })) = true ∧
    refusalIs (.serrorOutsideControl .el3)
      (runEvent (.takeSError 0 .spx) { base with sctlr2El2 := 4#64, pendingSErrors := [.el3] }) = true := by decide

/-- R116, and R105 with TGE, for the vectors of EL2 (R127): the other stack pointer, and UNDEFINED taken to EL2. -/
theorem test_vectors_of_el2 :
    faultIs (.serror .el2 0x80010980#64)
      (runEvent (.takeSError 0 .sp0) { base with sctlr2El2 := 4#64, pendingSErrors := [.el2] }) = true ∧
    (entryRecord (absent base) .spx (.undefined 0#32)).map (·.vector) = some (some 0x80010A00#64) ∧
    (entryRecord (host0 base) .spx (.undefined 0#32)).map (·.vector) = some (some 0x80010C00#64) ∧
    (entryRecord (atEl .el1 base) .spx (.undefined 0#32)).map (·.vector) = some none := by decide

/-- F22 to F24, and F26 for EMEC. -/
theorem test_emec :
    nextAnd (fun u => u.lastRealm == some ⟨.el2, true⟩) (runEvent (.realmAccess .el2 none) { base with sctlr2El2 := 2#64 }) = true ∧
    nextAnd (fun u => u.lastRealm == some ⟨.el2, false⟩) (runEvent (.realmAccess .el2 none) { base with sctlr2El2 := 0#64 }) = true ∧
    nextAnd (fun u => u.lastRealm == some ⟨.el2, false⟩)
      (runEvent (.realmAccess .el2 none) (closed { base with sctlr2El2 := 2#64 })) = true ∧
    nextAnd (fun u => u.lastRealm == some ⟨.el2, false⟩)
      (runEvent (.realmAccess .el2 none) (noEl2Enabled { base with sctlr2El2 := 2#64 })) = true := by decide

/-- The table of 95 section 2.6. -/
theorem test_syndromes :
    [0xD53C1060#32, 0xD53C1062#32, 0xD51C1061#32, 0xD51C107F#32, 0xD5381060#32, 0xD5381063#32, 0xD5181061#32].map
      sysTrapIss = [0x370401#25, 0x370441#25, 0x370420#25, 0x3707E0#25, 0x360401#25, 0x360461#25, 0x360420#25] := by
  decide

/-- The table of R116. -/
theorem test_vector_offsets :
    [VectorSource.sameElSp0, .sameElSpx, .lowerAArch64, .lowerAArch32].map syncOffset
      = [0x000#64, 0x200#64, 0x400#64, 0x600#64] ∧
    [VectorSource.sameElSp0, .sameElSpx, .lowerAArch64, .lowerAArch32].map serrorOffset
      = [0x180#64, 0x380#64, 0x580#64, 0x780#64] := by decide

/-! ### Witnesses: states and operands that meet the hypotheses of each obligation, clause by clause -/

/-- Writes a form's word at the program counter. -/
def loaded (i : Instr) (s : State) : State := { s with mem := Memory.writeList [] s.pc.toNat (encodeBytes i) }

theorem witness_DecodeOfEncode : (Instr.msrSctlr2El2 0).WellFormed ∧ (Instr.mrsSctlr2El1 31).WellFormed := by decide

theorem witness_DecodedWordsAreEncodings :
    decodeWord 0xD538107F#32 = some (.mrsSctlr2El1 31) ∧
    (Instr.mrsSctlr2El1 31).WellFormed ∧ encode (.mrsSctlr2El1 31) = 0xD538107F#32 := by decide

theorem witness_UnmatchedWordsRefused :
    (0xD53C1040#32 &&& 0xFFFFFFE0#32 ≠ 0xD53C1060#32 ∧ 0xD53C1040#32 &&& 0xFFFFFFE0#32 ≠ 0xD51C1060#32 ∧
      0xD53C1040#32 &&& 0xFFFFFFE0#32 ≠ 0xD5381060#32 ∧ 0xD53C1040#32 &&& 0xFFFFFFE0#32 ≠ 0xD5181060#32) ∧
    PeTurn (base.withFetchWord 32 0xD53C1040) ∧ FetchesWord (base.withFetchWord 32 0xD53C1040) 0xD53C1040#32 := by decide

/-- With the list of turns used up, and with a turn of the PE in it. -/
theorem witness_StepRunsDecodedInstruction_instruction :
    (Instr.msrSctlr2El1 31).WellFormed ∧ (loaded (.msrSctlr2El1 31) base).turns = [] ∧
    FetchesWord (loaded (.msrSctlr2El1 31) base) (encode (.msrSctlr2El1 31)) ∧
    PeTurn { loaded (.msrSctlr2El1 31) base with turns := [.pe, .environment .sync] } := by decide

theorem witness_StepRunsDecodedInstruction_event :
    ({ base with turns := [.environment .sync, .pe] } : State).turns = .environment .sync :: [.pe] := by decide

theorem witness_PlacedWordRuns :
    decodeTableWord 32 0xD518107F = some (.msrSctlr2El1 31) ∧ base.pc.toNat % 4 = 0 := by decide

theorem witness_MisalignedFetchRefused :
    PeTurn { base with pc := 0xFFFFFFFFFFFFFFFF#64 } ∧
    ({ base with pc := 0xFFFFFFFFFFFFFFFF#64 } : State).pc.toNat % 4 ≠ 0 ∧
    ({ base with pc := 2#64 } : State).pc.toNat % 4 ≠ 0 := by decide

theorem witness_GeneralRegisterLaws : 0 < 31 ∧ 30 < 31 ∧ 31 ≠ 30 := by decide

theorem witness_AbsentRegisterUndefined : (absent base).cfg.featSctlr2 = false := by decide

theorem witness_PresenceGateOfAllForms :
    (absent base).cfg.featSctlr2 = false ∧ (noEl2 base).cfg.featSctlr2 = true ∧ (noEl2 base).cfg.haveEl2 = false := by
  decide

theorem witness_El2NameStopTable_rows_1_to_3 :
    (Present (atEl .el0 base) ∧ (atEl .el0 base).ctx.el = .el0) ∧
    (Present (nv (atEl .el1 base)) ∧ (nv (atEl .el1 base)).ctx.el = .el1 ∧ (nv (atEl .el1 base)).el2Enabled = true ∧
      (nv (atEl .el1 base)).ctx.hcrNv = true) ∧
    (Present (atEl .el1 base) ∧ (atEl .el1 base).ctx.el = .el1 ∧
      ¬((atEl .el1 base).el2Enabled = true ∧ (atEl .el1 base).ctx.hcrNv = true)) := by decide

theorem witness_El2NameStopTable_rows_4_and_5 :
    (Present (debug (closed base)) ∧ (debug (closed base)).ctx.el = .el2 ∧ ¬GateOpen (debug (closed base)) ∧
      (debug (closed base)).ctx.halted = true ∧ (debug (closed base)).ctx.edscrSdd = true) ∧
    (Present (closed base) ∧ (closed base).ctx.el = .el2 ∧ ¬GateOpen (closed base) ∧
      ¬((closed base).ctx.halted = true ∧ (closed base).ctx.edscrSdd = true)) := by decide

/-- At EL3 with the gate closed, at EL2 with it open, and at EL2 in a window of the form's own writes. -/
theorem witness_forms_of_el2_name_complete :
    (31 < 32 ∧ Present (closed (atEl .el3 base)) ∧ El2NameReaches (closed (atEl .el3 base)) ∧
      NoRace .sctlr2El2 (closed (atEl .el3 base))) ∧
    (0 < 32 ∧ Present base ∧ El2NameReaches base ∧ NoRace .sctlr2El2 base) ∧
    (Present (oneWrite .sctlr2El2 (vhe base)) ∧ El2NameReaches (oneWrite .sctlr2El2 (vhe base)) ∧
      NoRace .sctlr2El2 (oneWrite .sctlr2El2 (vhe base))) := by decide

theorem witness_ReadByEl2NameCompletes :
    31 < 32 ∧ Present base ∧ El2NameReaches base ∧ NoRace .sctlr2El2 base := by decide

theorem witness_WriteByEl2NameCompletes :
    31 < 32 ∧ Present (vhe base) ∧ El2NameReaches (vhe base) ∧ NoRace .sctlr2El2 (vhe base) := by decide

theorem witness_WriteThenReadGivesFiltered :
    31 < 32 ∧ 30 < 31 ∧ Present base ∧ El2NameReaches base ∧ NoRace .sctlr2El2 base ∧ 29 ≠ 30 := by decide

/-- The boundary widths 1 and 25 of the lowest RES0 field, and an unimplemented field. -/
theorem witness_WriteStoresEachField :
    (31 < 32 ∧ Present base ∧ ConfigWf base.cfg ∧ El2NameReaches base ∧ NoRace .sctlr2El2 base ∧
      implemented base.cfg .emec = true) ∧
    ConfigWf { resetConfig with lowRes0Width := 25 } ∧
    (let s := inCfg (fun c => { c with implEmec := false }) base
     Present s ∧ ConfigWf s.cfg ∧ El2NameReaches s ∧ NoRace .sctlr2El2 s ∧ implemented s.cfg .emec = false ∧
      s.cfg.res0StorageMask.getLsbD (fieldPos s.cfg .emec) = false) := by decide

/-- A start at EL1 with the read's trap control set. -/
def trvm : State := inCtx (fun c => { c with hcrTrvm := true }) (atEl .el1 base)

/-- The early test of R85: halted, SDD set, the gate closed, and the priority parameter set. -/
def early1 : State := inCfg (fun c => { c with el3TrapPriorityWhenSdd := true }) (debug (closed (atEl .el1 base)))

/-- `early` and `trapped` of El1NameStopTable. -/
def isEarly (s : State) : Bool :=
  s.ctx.halted && s.cfg.haveEl3 && s.ctx.edscrSdd && s.cfg.el3TrapPriorityWhenSdd && !s.ctx.scrSctlr2En
def isTrapped (d : Direction) (s : State) : Bool :=
  s.el2Enabled && (vmTrap d s || (s.cfg.featFgt && (!s.cfg.haveEl3 || s.ctx.scrFgtEn) && fineGrainedBit d s) ||
    !s.ctx.hcrxEnabled || !s.ctx.hcrxSctlr2En)

theorem witness_El1NameStopTable_rows_1_to_5 :
    (Present (atEl .el0 base) ∧ (atEl .el0 base).ctx.el = .el0) ∧
    (Present early1 ∧ early1.ctx.el = .el1 ∧ isEarly early1 = true) ∧
    (Present trvm ∧ trvm.ctx.el = .el1 ∧ isEarly trvm = false ∧ isTrapped .read trvm = true) := by decide

theorem witness_El1NameStopTable_rows_6_and_7 :
    (let s := debug (closed (atEl .el1 base))
     Present s ∧ s.ctx.el = .el1 ∧ isEarly s = false ∧ isTrapped .write s = false ∧ ¬GateOpen s ∧
      s.ctx.halted = true ∧ s.ctx.edscrSdd = true) ∧
    (let s := closed (atEl .el1 base)
     Present s ∧ s.ctx.el = .el1 ∧ isEarly s = false ∧ isTrapped .write s = false ∧ ¬GateOpen s ∧
      ¬(s.ctx.halted = true ∧ s.ctx.edscrSdd = true)) := by decide

theorem witness_El1NameStopTable_rows_10_and_11 :
    (let s := debug (closed (vhe base))
     Present s ∧ s.ctx.el = .el2 ∧ ¬GateOpen s ∧ s.ctx.halted = true ∧ s.ctx.edscrSdd = true) ∧
    (Present (closed (vhe base)) ∧ (closed (vhe base)).ctx.el = .el2 ∧ ¬GateOpen (closed (vhe base)) ∧
      ¬((closed (vhe base)).ctx.halted = true ∧ (closed (vhe base)).ctx.edscrSdd = true)) := by decide

theorem witness_ReadByEl1NameReachesSctlr2El2 :
    31 < 32 ∧ Present (vhe base) ∧ (vhe base).ctx.el = .el2 ∧ GateOpen (vhe base) ∧ (vhe base).ctx.hcrE2h = true ∧
      NoRace .sctlr2El1 (vhe base) := by decide

theorem witness_WriteByEl1NameReachesSctlr2El2 :
    0 < 32 ∧ Present (oneWrite .sctlr2El1 (vhe base)) ∧ (oneWrite .sctlr2El1 (vhe base)).ctx.el = .el2 ∧
      GateOpen (oneWrite .sctlr2El1 (vhe base)) ∧ (oneWrite .sctlr2El1 (vhe base)).ctx.hcrE2h = true ∧
      NoRace .sctlr2El1 (oneWrite .sctlr2El1 (vhe base)) := by decide

theorem witness_El1NameReachesSctlr2El1_row_9 :
    31 < 32 ∧ Present (atEl .el1 base) ∧ El1NameReachesEl1 .read (atEl .el1 base) ∧
      El1NameReachesEl1 .write (atEl .el1 base) := by decide

theorem witness_El1NameReachesSctlr2El1_row_13 :
    0 < 32 ∧ Present base ∧ El1NameReachesEl1 .read base ∧ El1NameReachesEl1 .write base := by decide

theorem witness_El1NameReachesSctlr2El1_row_14 :
    0 < 32 ∧ Present (closed (atEl .el3 base)) ∧ El1NameReachesEl1 .read (closed (atEl .el3 base)) ∧
      El1NameReachesEl1 .write (closed (atEl .el3 base)) := by decide

/-- The slot with all its bytes written. -/
def slotFull : State := { nv (atEl .el1 base) with mem := Memory.writeList [] 0x90000278 (wordToBytes .little 0#64) }

theorem witness_SlotReadCompletes :
    31 < 32 ∧ Present slotFull ∧ El1Unstopped .read slotFull ∧ NvRedirects slotFull ∧ SlotAdmitted slotFull ∧
      ∀ k : Fin 8, slotFull.mem.read ((slotFull.cfg.nvmemBase + 0x278#64).toNat + k) = some 0#8 := by decide

/-- The slot at the end of the address space, whose last byte is the last of all. -/
theorem witness_SlotWriteCompletes :
    let s := inCfg (fun c => { c with nvmemBase := 0xFFFFFFFFFFFFFD80#64 }) (nv (atEl .el1 base))
    0 < 32 ∧ Present s ∧ El1Unstopped .write s ∧ NvRedirects s ∧ SlotAdmitted s ∧
      (s.cfg.nvmemBase + 0x278#64).toNat + 8 = 2 ^ 64 := by decide

theorem witness_SlotReadsBackWhatWasStored :
    31 < 32 ∧ 30 < 31 ∧ Present (nv (atEl .el1 base)) ∧ El1Unstopped .write (nv (atEl .el1 base)) ∧
      El1Unstopped .read (nv (atEl .el1 base)) ∧ NvRedirects (nv (atEl .el1 base)) ∧
      SlotAdmitted (nv (atEl .el1 base)) := by decide

theorem witness_UnwrittenSlotStillReads :
    31 < 32 ∧ Present (nv (atEl .el1 base)) ∧ El1Unstopped .read (nv (atEl .el1 base)) ∧
      NvRedirects (nv (atEl .el1 base)) ∧ SlotAdmitted (nv (atEl .el1 base)) ∧ slotWritten (nv (atEl .el1 base)) = false := by
  decide

theorem witness_SlotRefusals :
    (let s := inCfg (fun c => { c with nvmemBase := 7#64 }) (nv (atEl .el1 base))
     Present s ∧ El1Unstopped .read s ∧ NvRedirects s ∧ s.cfg.nvmemBase.toNat % 8 ≠ 0) ∧
    (let s := inCtx (fun c => { c with nvmemAdmitted := false }) (nv (atEl .el1 base))
     Present s ∧ El1Unstopped .write s ∧ NvRedirects s ∧ s.cfg.nvmemBase.toNat % 8 = 0 ∧ s.ctx.nvmemAdmitted = false) := by
  decide

/-- Both names, with Xt the zero register and X0, and the slot. -/
theorem witness_ReadFormsFrame :
    (∃ u, exec (form .sctlr2El2 .read 31) base = .next u ∧ (u.readX 1 == base.readX 1) = true) ∧
    (∃ u, exec (form .sctlr2El1 .read 0) slotFull = .next u ∧ (u.readX 1 == base.readX 1) = true) :=
  ⟨exists_next (p := fun u => u.readX 1 == base.readX 1) (by decide),
    exists_next (p := fun u => u.readX 1 == base.readX 1) (by decide)⟩

theorem witness_WriteFormsFrame :
    (∃ u, exec (form .sctlr2El2 .write 31) base = .next u ∧ (u.sctlr2El2 == 0#64) = true) ∧
    (∃ u, exec (form .sctlr2El1 .write 1) slotFull = .next u ∧ (u.mem.read 0x90000278 == some 0x25#8) = true) :=
  ⟨exists_next (p := fun u => u.sctlr2El2 == 0#64) (by decide),
    exists_next (p := fun u => u.mem.read 0x90000278 == some 0x25#8) (by decide)⟩

theorem witness_OnlyTheSlotIsAccessed :
    (atEl .el3 base).ctx.el ≠ .el1 ∧
    (∀ k < 8, Memory.read [(7, 1#8)] (slotAddr base.cfg + k) = base.mem.read (slotAddr base.cfg + k)) ∧
    (∃ u, exec (form .sctlr2El2 .read 0) base = .next u ∧ (u.mem == []) = true) ∧
    (∃ u, exec (form .sctlr2El1 .write 1) slotFull = .next u ∧
      (u.mem.read 0x9000027F != slotFull.mem.read 0x9000027F) = true) ∧
    (∃ u, runEvent (.slotStore 1#64) slotFull = .next u ∧
      (u.mem.read 0x90000278 != slotFull.mem.read 0x90000278) = true) ∧
    ∃ u, runEvent (.realmAccess .other none) slotFull = .next u ∧ (u.mem == slotFull.mem) = true :=
  ⟨by decide, by decide, exists_next (p := fun u => u.mem == []) (by decide),
    exists_next (p := fun u => u.mem.read 0x9000027F != slotFull.mem.read 0x9000027F) (by decide),
    exists_next (p := fun u => u.mem.read 0x90000278 != slotFull.mem.read 0x90000278) (by decide),
    exists_next (p := fun u => u.mem == slotFull.mem) (by decide)⟩

theorem witness_TrapsGoUp :
    exec (.mrsSctlr2El2 0) (nv (atEl .el1 base)) = .fault (.sysTrap .el2 0x18#6 0xD53C1060#32) ∧
    exec (.msrSctlr2El2 31) (closed base) = .fault (.sysTrap .el3 0x18#6 0xD51C107F#32) :=
  ⟨fault_of_faultIs (by decide), fault_of_faultIs (by decide)⟩

theorem witness_LeastLevelOfEachName :
    (∃ u, exec (form .sctlr2El1 .read 0) (atEl .el1 base) = .next u ∧ (u.ctx.el == .el1) = true) ∧
    (∃ u, exec (form .sctlr2El2 .write 0) base = .next u ∧ (u.ctx.el == .el2) = true) :=
  ⟨exists_next (p := fun u => u.ctx.el == .el1) (by decide), exists_next (p := fun u => u.ctx.el == .el2) (by decide)⟩

/-- The hypotheses of attainment: at EL2 in a race, and at EL1 with the slot and without. -/
theorem witness_LeastLevelOfEachName_attained :
    (Present (oneWrite .sctlr2El1 (vhe base)) ∧ (oneWrite .sctlr2El1 (vhe base)).ctx.el = .el2 ∧
      GateOpen (oneWrite .sctlr2El1 (vhe base))) ∧
    (Present (nv (atEl .el1 base)) ∧ El1Unstopped .read (nv (atEl .el1 base)) ∧
      (NvRedirects (nv (atEl .el1 base)) → SlotAdmitted (nv (atEl .el1 base)))) ∧
    (Present (atEl .el1 base) ∧ El1Unstopped .write (atEl .el1 base) ∧ ¬NvRedirects (atEl .el1 base)) := by decide

theorem witness_TrapPriorityUnseenAtEl2 : (debug (closed base)).ctx.el = .el2 := by decide

theorem witness_TrapPriorityDecidesAtEl1 :
    Present b13 ∧ b13.ctx.el = .el1 ∧ b13.ctx.halted = true ∧ b13.cfg.haveEl3 = true ∧ b13.ctx.edscrSdd = true ∧
      b13.ctx.scrSctlr2En = false ∧ b13.el2Enabled = true ∧ vmTrap .read b13 = true := by decide

theorem witness_TrapSyndrome :
    31 < 32 ∧ 0 < 32 ∧ (debug base).ctx.halted = true ∧ base.ctx.halted = false ∧
      ((host0 base).ctx.el = .el0 ∧ (host0 base).ctx.hcrTge = true ∧ (host0 base).ctx.halted = false) := by decide

/-- Before the window, and in a window with one write, by each of the names. -/
theorem witness_AliasOrdering :
    (31 < 32 ∧ Present (vhe base) ∧ GateOpen (vhe base) ∧ (vhe base).cfg.featVhe = true ∧
      (vhe base).ctx.hcrE2h = true ∧ (vhe base).ctx.el = .el2 ∧ (vhe base).pendingAlias = none) ∧
    ((oneWrite .sctlr2El1 (vhe base)).pendingAlias = some ⟨0x2#64, [], [0x40#64]⟩ ∧
      (⟨0x2#64, [], [0x40#64]⟩ : PendingAlias).writesBy .sctlr2El1 = [(oneWrite .sctlr2El1 (vhe base)).sctlr2El2] ∧
      (⟨0x2#64, [], [0x40#64]⟩ : PendingAlias).writesBy .sctlr2El2 = []) ∧
    ((oneWrite .sctlr2El2 (vhe base)).pendingAlias = some ⟨0x2#64, [0x40#64], []⟩ ∧
      (⟨0x2#64, [0x40#64], []⟩ : PendingAlias).writesBy .sctlr2El2 = [(oneWrite .sctlr2El2 (vhe base)).sctlr2El2] ∧
      (⟨0x2#64, [0x40#64], []⟩ : PendingAlias).writesBy .sctlr2El1 = []) := by decide

theorem witness_RacesComplete :
    let s := oneWrite .sctlr2El1 (vhe base)
    31 < 32 ∧ Present s ∧ GateOpen s ∧ s.cfg.featVhe = true ∧ s.ctx.hcrE2h = true ∧ s.ctx.el = .el2 ∧
      s.pendingAlias = some ⟨0x2#64, [], [0x40#64]⟩ ∧
      (⟨0x2#64, [], [0x40#64]⟩ : PendingAlias).writesBy (otherName .sctlr2El2) ≠ [] := by decide

/-- A state with an open window, a written memory and the word of a racing write at the program counter. -/
def racing : State := loaded (.msrSctlr2El1 1) (oneWrite .sctlr2El2 (vhe base))

theorem witness_EffectiveValues :
    ((closed base).effectWindow = ⟨[], []⟩ ∧ ¬GateOpen (closed base)) ∧
    (base.effectWindow = ⟨[], []⟩ ∧ GateOpen base ∧ ControlField.emec ≠ .enAnerr ∧ ControlField.emec ≠ .enAderr) := by
  decide

theorem witness_Res0BitsHaveNoEffect :
    implemented resetConfig .enIdcp128 = true ∧
      0xFFFFFFFFFFFFFF81#64 &&& funcMask resetConfig = 0#64 &&& funcMask resetConfig := by decide

/-- The bit of EMEC where it is not implemented (bit 1), in the register and in an open window. -/
theorem witness_Res0BitsHaveNoEffect_events :
    let s := inCfg (fun c => { c with implEmec := false })
      { base with sctlr2El2 := 0x40#64, effectWindow := ⟨[0x20#64], []⟩ }
    0x42#64 &&& funcMask s.cfg = s.sctlr2El2 &&& funcMask s.cfg ∧
      [0x22#64].map (· &&& funcMask s.cfg) = s.effectWindow.oldStored.map (· &&& funcMask s.cfg) ∧
      (Event.realmAccess .other (some 4)).isEffect = true ∧ withStored 0x42#64 [0x22#64] s ≠ s := by decide

/-- The environment's change, and a racing write in the open windows with a TLB copy, in a turn of the PE: so no Sync, no
Reset, no TlbInvalidate and no fill. -/
theorem witness_Sctlr2EnChangeOpensWindow :
    (closed base).ctx.scrSctlr2En ≠ base.ctx.scrSctlr2En ∧
    (∃ u, step { racing with tlbEmec := [⟨5, true, true⟩], effectWindow := ⟨[0x2#64], [false]⟩ } = .next u ∧
      (u.effectWindow.oldStored.length == 3 && u.tlbEmec == [⟨5, true, true⟩]) = true) ∧
    PeTurn racing ∧ ¬EventTurn racing .sync ∧ ¬EventTurn racing .tlbInvalidate ∧ ¬EventTurn racing (.tlbFill 5) ∧
    ∀ r, ¬EventTurn racing (.reset r) :=
  ⟨by decide, exists_next (p := fun u => u.effectWindow.oldStored.length == 3 && u.tlbEmec == [⟨5, true, true⟩])
    (by decide), by decide, by decide, by decide, by decide, fun _ h => nomatch h⟩

theorem witness_EnIdcp128Trap :
    (let s := host0 { base with sctlr2El2 := 0#64 }
     s.cfg.featSctlr2 = true ∧ s.cfg.implEnIdcp128 = true ∧ s.el2Enabled = true ∧ s.ctx.el = .el0 ∧
      s.cfg.featVhe = true ∧ s.ctx.hcrE2h = true ∧ s.ctx.hcrTge = true ∧ reg128 ∈ s.cfg.impdef128Sysregs ∧
      effSeen s .enIdcp128 = false) ∧
    effSeen (host0 base) .enIdcp128 = true ∧
    ((closed (host0 base)).effectWindow = ⟨[], []⟩ ∧ ¬GateOpen (closed (host0 base))) := by decide

theorem witness_EnIdcp128Elsewhere :
    (let s := atEl .el2 (host0 { base with sctlr2El2 := 0#64 })
     s.cfg.featSctlr2 = true ∧ s.cfg.implEnIdcp128 = true ∧ s.el2Enabled = true ∧ s.ctx.el = .el2 ∧
      reg128 ∈ s.cfg.impdef128Sysregs ∧ effSeen s .enIdcp128 = false) ∧
    runEvent (.access128 reg128 0#32 false) (closed (host0 base)) = .fault (.sysTrap .el2 0x14#6 0#32) :=
  ⟨by decide, fault_of_faultIs (by decide)⟩

theorem witness_EaseSelectsVector :
    (let s : State := { base with sctlr2El2 := 0x20#64 }
     s.cfg.featSctlr2 = true ∧ s.cfg.implEase = true ∧ s.el2Enabled = true ∧ effSeen s .ease = true) ∧
    effSeen { base with sctlr2El2 := 0xDF#64 } .ease = false := by decide

/-- A read whose abort is reported synchronously and taken to EL2, and to EL3. -/
theorem witness_EaseSelectsVector_data_abort :
    runEvent (.externalAbort readN toEl2) (closed (aborting false false base))
      = .fault (.syncDataAbort readN .el2 (some 0x80010A00#64)) ∧
    runEvent (.externalAbort readN { toEl2 with syncTarget := .el3 }) (closed (aborting false false base))
      = .fault (.syncDataAbort readN .el3 none) :=
  ⟨fault_of_faultIs (by decide), fault_of_faultIs (by decide)⟩

/-- EnANERR and EnADERR, each at 1 and (the gate of EL3 closed) at 0, with and without SYNC_ABORT_IMPOSSIBLE. -/
theorem witness_AbortReports :
    (let s : State := aborting false true { base with sctlr2El2 := 0x18#64 }
     (readN.memType = .normal ∧ asyncApplies s.cfg readN = true) ∧
     (readD.memType = .device ∧ asyncApplies s.cfg readD = true) ∧
     controlsApply s s.ctx.el = true ∧
     readN.regime ≠ .other ∧ readD.regime ≠ .other ∧ s.cfg.featSctlr2 = true ∧ implemented s.cfg .enAnerr = true ∧
      implemented s.cfg .enAderr = true ∧ s.el2Enabled = true ∧
      syncImpossible s.cfg readD = true ∧ syncImpossible s.cfg readN = false ∧
      effSeen (closed s) .enAnerr = false ∧ effSeen (closed s) .enAderr = false) := by decide

/-- A stored 1 is seen as 1 whatever the FORCE_ONE conditions are. -/
theorem witness_AbortReports_at_one :
    effSeen (aborting false false { base with sctlr2El2 := 0x18#64 }) .enAnerr = true ∧
    effSeen (aborting false false { base with sctlr2El2 := 0x18#64 }) .enAderr = true := by
  constructor
  · show (if false = true then false else if Config.forceOneEnAnerr _ _ = true then true else true) = true
    cases Config.forceOneEnAnerr _ _ <;> rfl
  · show (if false = true then false else if Config.forceOneEnAderr _ _ = true then true else true) = true
    cases Config.forceOneEnAderr _ _ <;> rfl

theorem witness_AbortReportsAreThree :
    ({ readN with regime := .other } : AbortedRead).regime = .other ∧ readN.regime ≠ .other ∧ readD.regime ≠ .other := by
  decide

/-- The first part at both values of the field and of PSTATE.A; the second with a target above EL2 and with EL2 not
enabled. -/
theorem witness_NmeaLiftsTheMask :
    (let s : State := { base with sctlr2El2 := 4#64, pendingSErrors := [.el2, .el3] }
     s.cfg.featSctlr2 = true ∧ s.cfg.implNmea = true ∧ s.el2Enabled = true ∧ s.ctx.el = .el2 ∧
      s.pendingSErrors[0]? = some .el2 ∧ effSeen s .nmea = true ∧
      (s.pendingSErrors[1]? = some .el3 ∧ elRank .el2 < elRank .el3) ∧ (noEl2Enabled s).el2Enabled = false) ∧
    (let s : State := { base with sctlr2El2 := 0#64, pendingSErrors := [.el2] }
     s.pendingSErrors[0]? = some .el2 ∧ effSeen s .nmea = false ∧ s.ctx.pstateA = true ∧
      (inCtx (fun c => { c with pstateA := false }) s).ctx.pstateA = false) := by decide

theorem witness_SErrorTakenOnlyAtEl2 :
    runEvent (.takeSError 0 .spx) { base with sctlr2El2 := 4#64, pendingSErrors := [.el2] } =
      .fault (.serror .el2 0x80010B80#64) ∧
    ({ base with pendingSErrors := [.el3] } : State).pendingSErrors[0]? = some .el3 ∧ EL.el3 ≠ .el2 :=
  ⟨fault_of_faultIs (by decide), by decide, by decide⟩

/-- A translation that hits nothing beside one that is remembered, a closed gate, a level that is controlled and one that is
not, and a false guard. -/
theorem witness_RealmAccessAttribute :
    (let s : State := { base with tlbEmec := [⟨5, true, true⟩] }
     ∀ k ∈ some 4, ∀ c ∈ s.tlbEmec, c.translation ≠ k) ∧
    controlsApply base base.ctx.el = true ∧ controlsApply (atEl .el1 base) (atEl .el1 base).ctx.el = false ∧
    (closed base).effectWindow = ⟨[], []⟩ ∧ ¬GateOpen (closed base) ∧
    ¬((noEl2Enabled base).cfg.featSctlr2 = true ∧ (noEl2Enabled base).cfg.implEmec = true ∧
      (noEl2Enabled base).el2Enabled = true) := by decide

theorem witness_TlbRemembersEmec :
    let s : State := { base with tlbEmec := [⟨5, true, true⟩] }
    s.tlbEmec.find? (fun c => c.translation == 5) = some ⟨5, true, true⟩ ∧
      (s.cfg.featSctlr2 = true ∧ s.cfg.implEmec = true ∧ s.el2Enabled = true ∧ controlsApply s s.ctx.el = true) ∧
      (noEl2Enabled s).tlbEmec = s.tlbEmec ∧ (noEl2Enabled s).el2Enabled = false := by decide

theorem witness_TlbFillRemembers : 4 ≠ 5 := by decide

theorem witness_NoEffectWithoutEl2 :
    let s : State := { noEl2Enabled (atEl .el3 base) with pendingSErrors := [.el2] }
    s.el2Enabled = false ∧ Present s ∧ s.ctx.el = .el3 ∧ (Event.realmAccess .el2 none).isEffect = true ∧
      nextAnd (fun u => u.lastRealm == some ⟨.el2, false⟩) (runEvent (.realmAccess .el2 none) s) = true := by decide

/-- EL1, EL3 and EL0 outside AppliesAtEL0, with EL2 enabled; a Realm access, and an abort not taken to EL2. -/
theorem witness_NoEffectWithoutEl2_levels :
    (∀ el ∈ [EL.el0, .el1, .el3], (atEl el base).ctx.el ≠ .el2 ∧ (atEl el base).el2Enabled = true ∧
      ¬((atEl el base).ctx.el = .el0 ∧ (atEl el base).cfg.featVhe = true ∧ (atEl el base).ctx.hcrE2h = true ∧
        (atEl el base).ctx.hcrTge = true)) ∧
    (Event.realmAccess .el2 none).isEffect = true ∧
    (Event.externalAbort readN { toEl2 with syncTarget := .el3 }).isEffect = true ∧ EL.el3 ≠ .el2 := by decide

theorem witness_AllFieldsOffTogether :
    (let s : State := aborting false true (closed { host0 base with sctlr2El2 := 0x7E#64 })
     s.effectWindow = ⟨[], []⟩ ∧ ¬GateOpen s ∧ s.cfg.featSctlr2 = true ∧ s.el2Enabled = true ∧
      s.cfg.implEnIdcp128 = true ∧ s.ctx.el = .el0 ∧ appliesAtEl0 s = true ∧ reg128 ∈ s.cfg.impdef128Sysregs ∧
      s.cfg.implEase = true ∧ readN.regime ≠ .other ∧ implemented s.cfg (abortField readN) = true ∧
      asyncApplies s.cfg readN = true ∧ asyncApplies s.cfg readD = true ∧ controlsApply s s.ctx.el = true) ∧
    (let s : State := closed { atEl .el2 (host0 base) with sctlr2El2 := 0x7E#64, pendingSErrors := [.el2] }
     s.effectWindow = ⟨[], []⟩ ∧ ¬GateOpen s ∧ s.cfg.implEnIdcp128 = true ∧ reg128 ∈ s.cfg.impdef128Sysregs ∧
      s.cfg.implNmea = true ∧ s.ctx.el = .el2 ∧ s.pendingSErrors[0]? = some .el2 ∧ s.ctx.pstateA = true ∧
      controlsApply s s.ctx.el = true) := by decide

theorem racing_inv : Inv racing where
  memory := by decide
  stored := by decide
  oldStored := fun v hv => nomatch hv
  aliasKept := by
    rintro p ⟨⟩
    exact ⟨by decide, List.forall_mem_singleton.2 (by decide)⟩
  window := by decide

theorem witness_StepKeepsInvariant : Inv racing ∧ ∃ u, step racing = .next u ∧ (u.pc == 0x1004#64) = true :=
  ⟨racing_inv, exists_next (p := fun u => u.pc == 0x1004#64) (by decide)⟩

theorem witness_ConfigurationIsFixed : ∃ u, step racing = .next u ∧ (u.cfg == racing.cfg) = true :=
  exists_next (p := fun u => u.cfg == racing.cfg) (by decide)

theorem witness_InputsAreOnlyTheEnvironments :
    ∃ u, step { base with turns := [.environment (.setInputs (closed base).ctx)] } = .next u ∧ (u.ctx != base.ctx) = true :=
  exists_next (p := fun u => u.ctx != base.ctx) (by decide)

theorem witness_RegisterChangesOnlyByPrivilegedWrite :
    (∃ u, step (loaded (.msrSctlr2El2 1) base) = .next u ∧ (u.sctlr2El2 != base.sctlr2El2) = true) ∧
    (∃ u, step (loaded (.msrSctlr2El1 1) (vhe base)) = .next u ∧ (u.sctlr2El2 != base.sctlr2El2) = true) :=
  ⟨exists_next (p := fun u => u.sctlr2El2 != base.sctlr2El2) (by decide),
    exists_next (p := fun u => u.sctlr2El2 != base.sctlr2El2) (by decide)⟩

/-- A start whose SCTLR2_EL1 is not what the write leaves there, whatever WriteFilterEL1 is. -/
theorem witness_Sctlr2El1ChangesOnlyByItsWrite :
    let s : State := { loaded (.msrSctlr2El1 1) base with
      sctlr2El1 := Config.writeFilterEl1 0xFFFFFFFFFFFFFF25#64 + 1#64 }
    ∃ u, step s = .next u ∧ u.sctlr2El1 ≠ s.sctlr2El1 := by
  refine ⟨_, rfl, ?_⟩
  show Config.writeFilterEl1 0xFFFFFFFFFFFFFF25#64 ≠ Config.writeFilterEl1 0xFFFFFFFFFFFFFF25#64 + 1#64
  bv_omega

theorem witness_Sctlr2El1ChangesOnlyByItsWrite_event :
    ∃ u, step { base with turns := [.environment (.setSctlr2El1 0x77#64)] } = .next u ∧ (u.sctlr2El1 == 0x77#64) = true :=
  exists_next (p := fun u => u.sctlr2El1 == 0x77#64) (by decide)

theorem witness_EventsKeepRegisters :
    (∃ u, runEvent (.setX 30 1#64) base = .next u ∧ (u.readX 1 == base.readX 1) = true) ∧
    (∀ r, Event.setX 30 1#64 ≠ .reset r) ∧ (∀ v, Event.setX 30 1#64 ≠ .setX 1 v) ∧
    (∀ v, Event.setX 30 1#64 ≠ .setPc v) ∧ (∀ v, Event.setX 30 1#64 ≠ .setSctlr2El1 v) :=
  ⟨exists_next (p := fun u => u.readX 1 == base.readX 1) (by decide), by simp, by simp, by simp, by simp⟩

/-- New inputs with the same SCR_EL3.SCTLR2En, and the slot at an aligned and at a misaligned base. -/
theorem witness_EventsKeepRegisters_inputs :
    ((atEl .el1 base).ctx.scrSctlr2En = base.ctx.scrSctlr2En ∧ (atEl .el1 base).ctx ≠ base.ctx) ∧
    base.cfg.nvmemBase.toNat % 8 = 0 ∧
    (inCfg (fun c => { c with nvmemBase := 7#64 }) base).cfg.nvmemBase.toNat % 8 ≠ 0 := by decide

theorem witness_PendingSErrorsGrowByReports :
    ({ base with pendingSErrors := [.el2] } : State).pendingSErrors.length ≤ 1 ∧
    ∃ u, step { base with turns := [.environment (.raiseSError .el3)] } = .next u ∧ (u.pendingSErrors == [.el3]) = true :=
  ⟨by decide, exists_next (p := fun u => u.pendingSErrors == [.el3]) (by decide)⟩

theorem witness_FormsFallThrough :
    PeTurn (loaded (.mrsSctlr2El1 0) base) ∧
    ∃ u, step (loaded (.mrsSctlr2El1 0) base) = .next u ∧ (u.pc == 0x1004#64) = true :=
  ⟨by decide, exists_next (p := fun u => u.pc == 0x1004#64) (by decide)⟩

end Sys2Proof.Tests
end

section
/-! PROOFS. Family 00_scope: the presence gate, the word placed from outside, what a step keeps and who can change an
input or SCTLR2_EL1, what the environment's events do, the effects of EMEC, EnANERR and EnADERR, and where the stored value has none. -/

namespace Sys2Proof.Machine

/-! ### Absence of the register -/

/-- The presence gate comes before every other test of every form (R86). -/
theorem routeOf_of_absent {s : State} (h : s.cfg.featSctlr2 = false) (n : RegName) (d : Direction) :
    routeOf n d s = .undefined := by
  cases n <;> simp [routeOf, routeEl2Name, routeEl1Name, present, h]

theorem exec_of_route_undefined {n : RegName} {d : Direction} {s : State} (h : routeOf n d s = .undefined) (t : Nat) :
    exec (form n d t) s = .fault (.undefined (encode (form n d t))) := by
  cases d with
  | read => rw [exec_read, h]; rfl
  | write => rw [exec_write, h]; rfl

/-- Settles O9: the presence gate routes both forms to UNDEFINED. -/
theorem absentRegisterUndefined : Obligations.AbsentRegisterUndefined :=
  fun _ d t h => exec_of_route_undefined (routeOf_of_absent h .sctlr2El2 d) t

/-! ### The word placed from outside -/

theorem toNat_alignDown (a : Word) : (alignDown a).toNat = 4 * (a.toNat / 4) := by
  have := a.isLt
  rw [alignDown, BitVec.toNat_ofNat, Nat.mod_eq_of_lt (by omega)]

theorem alignDown_of_aligned {a : Word} (h : a.toNat % 4 = 0) : alignDown a = a :=
  BitVec.eq_of_toNat_eq (by rw [toNat_alignDown]; omega)

/-- A placed word stands at the program counter, aligned, and no store to the slot hides it (log 16, log 30). -/
theorem fetchesWord_placeWord (w : InstrWord) (s : State) : FetchesWord (placeWord w s) w := by
  have byte (k : Nat) (hk : k < 4) :
      (placeWord w s).mem.read ((placeWord w s).pc.toNat + k) = some ((wordBytes w)[k]'hk) :=
    Memory.read_writeList_inside s.mem _ _ hk
  refine ⟨?_, ?_, byte 0 (by decide), byte 1 (by decide), byte 2 (by decide), byte 3 (by decide)⟩
  · rw [placeWord_pc, toNat_alignDown, Nat.mul_mod_right]
  · rw [placeWord_slotStored, placeWord_cfg, placeWord_pc]
    cases meetsSlot s.cfg (alignDown s.pc).toNat <;> simp

theorem decodeWord_of_decodeTableWord {n w : Nat} {i : Instr} (h : decodeTableWord n w = some i) :
    decodeWord (tableWord n w) = some i := by
  have hd := decode_wordBytes (tableWord n w) []
  rw [List.append_nil] at hd
  cases hw : decodeWord (tableWord n w) with
  | none => simp [decodeTableWord, hd, hw] at h
  | some j => simpa [decodeTableWord, hd, hw] using h

/-- Settles O6: the placed word is fetched in the PE's turn, which the emptied list of turns makes the next one. -/
theorem placedWordRuns : Obligations.PlacedWordRuns := by
  intro s w i hi
  refine ⟨?_, fun r => rfl, fun h => alignDown_of_aligned h⟩
  have hf : fetchInstr (s.withFetchWord 32 w) = .ok i := by
    rw [State.withFetchWord, fetchInstr_word (fetchesWord_placeWord _ s), decodeWord_of_decodeTableWord hi]
  rw [step_fetch (.inl rfl), hf]
  rfl

/-! ### What a step keeps -/

/-- No form that completes changes the configuration, an input, the TLB copies, the pending SErrors, the Realm record or
the coming turns (R8, R36). -/
theorem exec_next_untouched {i : Instr} {s u : State} (h : exec i s = .next u) : untouched u = untouched s := by
  obtain ⟨n, d, t, rfl⟩ := exists_form i
  cases d with
  | read =>
    rw [exec_read] at h
    obtain ⟨-, rfl⟩ | ⟨-, rfl⟩ | ⟨-, -, rfl⟩ := performRead_next h <;> rfl
  | write =>
    rw [exec_write] at h
    obtain ⟨-, rfl⟩ | ⟨-, rfl⟩ | ⟨-, -, rfl⟩ := performWrite_next h <;> rfl

theorem exec_next_cfg {i : Instr} {s u : State} (h : exec i s = .next u) : u.cfg = s.cfg :=
  congrArg Prod.fst (exec_next_untouched h)

theorem exec_next_ctx {i : Instr} {s u : State} (h : exec i s = .next u) : u.ctx = s.ctx :=
  congrArg (fun p => p.2.1) (exec_next_untouched h)

theorem runEvent_next_cfg {e : Event} {s u : State} (h : runEvent e s = .next u) : u.cfg = s.cfg := by
  obtain ⟨r, -, h⟩ | ⟨c, -, h⟩ | ⟨t, v, -, h⟩ | ⟨v, -, h⟩ | ⟨v, -, h⟩ | ⟨v, -, h⟩ | h := runEvent_next h
  · cases h; rfl
  · cases h; rfl
  all_goals exact (congrArg State.cfg h :)

theorem runEvent_next_ctx {e : Event} {s u : State} (h : runEvent e s = .next u) :
    u.ctx = s.ctx ∨ (∃ c, e = .setInputs c) ∨ ∃ r, e = .reset r := by
  obtain ⟨r, he, -⟩ | ⟨c, he, -⟩ | ⟨t, v, -, h⟩ | ⟨v, -, h⟩ | ⟨v, -, h⟩ | ⟨v, -, h⟩ | h := runEvent_next h
  · exact .inr (.inr ⟨r, he⟩)
  · exact .inr (.inl ⟨c, he⟩)
  all_goals exact .inl (congrArg State.ctx h :)

/-- Everything an event but a reset leaves as it was, each register up to the event that supplies it (R10, R32, R37). -/
theorem runEvent_next_registers {e : Event} {s u : State} (h : runEvent e s = .next u) (hr : ∀ r, e ≠ .reset r) :
    u.sctlr2El2 = s.sctlr2El2 ∧ (u.x = s.x ∨ ∃ t v, e = .setX t v ∧ u.x = (s.writeX t v).x) ∧
      (u.pc = s.pc ∨ ∃ v, e = .setPc v) ∧
      (u.sctlr2El1 = s.sctlr2El1 ∨ e = .setSctlr2El1 u.sctlr2El1) := by
  obtain ⟨r, rfl, -⟩ | ⟨c, -, h⟩ | ⟨t, v, he, h⟩ | ⟨v, rfl, rfl⟩ | ⟨v, he, h⟩ | ⟨v, -, h⟩ | h := runEvent_next h
  · exact absurd rfl (hr r)
  · cases h
    exact ⟨rfl, .inl rfl, .inl rfl, .inl rfl⟩
  · exact ⟨(congrArg State.sctlr2El2 h :), .inr ⟨t, v, he, congrArg State.x h⟩, .inl (congrArg State.pc h :),
      .inl (congrArg State.sctlr2El1 h :)⟩
  · exact ⟨rfl, .inl rfl, .inl rfl, .inr rfl⟩
  · exact ⟨(congrArg State.sctlr2El2 h :), .inl (congrArg State.x h :), .inr ⟨v, he⟩,
      .inl (congrArg State.sctlr2El1 h :)⟩
  all_goals exact ⟨(congrArg State.sctlr2El2 h :), .inl (congrArg State.x h :), .inl (congrArg State.pc h :),
    .inl (congrArg State.sctlr2El1 h :)⟩

theorem eventTurn_of_turns {s : State} {e : Event} {ts : List Turn} (h : s.turns = .environment e :: ts) :
    EventTurn s e := by
  rw [EventTurn, h, List.head?_cons]

/-- Settles O54: neither an event nor a form changes the configuration. -/
theorem configurationIsFixed : Obligations.ConfigurationIsFixed := by
  intro s u h
  obtain ⟨e, ts, -, h⟩ | ⟨-, i, -, h⟩ := step_next h
  · exact (runEvent_next_cfg h :)
  · exact (exec_next_cfg h :)

/-- Settles O55: no form changes an input, and of the events only the two for the inputs do. -/
theorem inputsAreOnlyTheEnvironments : Obligations.InputsAreOnlyTheEnvironments := by
  intro s u h
  obtain ⟨e, ts, ht, h⟩ | ⟨-, i, -, h⟩ := step_next h
  · obtain h | ⟨c, rfl⟩ | ⟨r, rfl⟩ := runEvent_next_ctx h
    · exact .inl h
    · exact .inr (.inl ⟨c, eventTurn_of_turns ht⟩)
    · exact .inr (.inr ⟨r, eventTurn_of_turns ht⟩)
  · exact .inl (exec_next_ctx h :)

/-! ### Who changes SCTLR2_EL1 -/

/-- A form that the presence gate lets through goes on to its own tests (R86). -/
theorem present_eq {s : State} {r r' : Route} (h : present s r = r') (hu : r' ≠ .undefined) (hn : r' ≠ .noEl2) :
    Present s ∧ r = r' := by
  unfold present at h
  split at h
  · exact absurd h.symm hu
  split at h
  · exact absurd h.symm hn
  rename_i hfeat hel2
  exact ⟨⟨by simpa using hfeat, by simpa using hel2⟩, h⟩

/-- At EL1 a form that names SCTLR2_EL1 reaches a target only past every trap control (R92 rows 2 to 7). -/
theorem el1Unstopped_of_route {d : Direction} {s : State} {r : Route} (he : s.ctx.el = .el1)
    (h : routeEl1Name d s = r) (hr : r = .nvmem ∨ r = .sctlr2El1) : El1Unstopped d s := by
  obtain ⟨hu, hn, ht⟩ : r ≠ .undefined ∧ r ≠ .noEl2 ∧ ∀ el, r ≠ .trap el := by rcases hr with rfl | rfl <;> simp
  have hg : el3Gate s ≠ r := el3Gate_stops s r (by rcases hr with rfl | rfl <;> simp)
  obtain ⟨-, h⟩ := present_eq h hu hn
  simp only [he] at h
  split at h
  · exact absurd h.symm hu
  split at h
  · exact absurd h.symm (ht _)
  split at h
  · exact absurd h.symm (ht _)
  split at h
  · exact absurd h.symm (ht _)
  split at h
  · exact absurd h hg
  rename_i hvm hfgt hhcrx hoff
  refine ⟨he, (gateOpen_iff s).2 (by simpa using hoff), fun hen => ?_⟩
  simp only [hen, Bool.true_and, Bool.not_eq_true, Bool.and_eq_false_iff, Bool.or_eq_false_iff,
    Bool.not_eq_eq_eq_not, Bool.not_false] at hvm hfgt hhcrx
  exact ⟨hvm, or_assoc.1 hfgt, hhcrx⟩

/-- The name SCTLR2_EL1 reaches SCTLR2_EL1 in rows 9, 13 and 14 of R92 only. -/
theorem routeEl1Name_sctlr2El1_iff (d : Direction) (s : State) :
    routeEl1Name d s = .sctlr2El1 ↔ Present s ∧ El1NameReachesEl1 d s := by
  refine ⟨fun h => ?_, fun h => routeEl1Name_of_reachesEl1 h.1 h.2⟩
  obtain ⟨hp, h'⟩ := present_eq h (by simp) (by simp)
  refine ⟨hp, ?_⟩
  cases he : s.ctx.el with
  | el0 => simp [he] at h'
  | el1 =>
    have hu := el1Unstopped_of_route he h (.inr rfl)
    refine .inr (.inr ⟨hu, fun hn => ?_⟩)
    rw [routeEl1Name_nvmem hp hu hn] at h
    cases h
  | el2 =>
    by_cases hg : GateOpen s
    · rw [routeEl1Name_el2 hp he hg] at h
      exact .inr (.inl ⟨he, hg, by simpa using h⟩)
    · simp only [he] at h'
      rw [el2_closed_gate hg] at h'
      split at h' <;> cases h'
  | el3 => exact .inl he

theorem routeEl2Name_ne_sctlr2El1 (s : State) : routeEl2Name s ≠ .sctlr2El1 := by
  intro h
  obtain ⟨-, h⟩ := present_eq h (by simp) (by simp)
  cases he : s.ctx.el with
  | el0 => simp [he] at h
  | el1 =>
    simp only [he] at h
    split at h <;> cases h
  | el2 =>
    simp only [he] at h
    split at h
    · cases h
    split at h
    · exact el3Gate_stops s _ (by simp) h
    · cases h
  | el3 => simp [he] at h

/-- A form that changes SCTLR2_EL1 is the write form that names it, and it reached it (R37, R90). -/
theorem exec_next_sctlr2El1 {i : Instr} {s u : State} (h : exec i s = .next u) (hc : u.sctlr2El1 ≠ s.sctlr2El1) :
    ∃ t, i = .msrSctlr2El1 t ∧ Present s ∧ El1NameReachesEl1 .write s ∧
      u.sctlr2El1 = Config.writeFilterEl1 (s.readX t) := by
  obtain ⟨n, d, t, rfl⟩ := exists_form i
  cases d with
  | read =>
    rw [exec_read] at h
    obtain ⟨-, rfl⟩ | ⟨-, rfl⟩ | ⟨-, -, rfl⟩ := performRead_next h <;> exact absurd rfl hc
  | write =>
    rw [exec_write] at h
    obtain ⟨-, rfl⟩ | ⟨hr, rfl⟩ | ⟨-, -, rfl⟩ := performWrite_next h
    · exact absurd rfl hc
    · cases n with
      | sctlr2El2 => exact absurd hr (routeEl2Name_ne_sctlr2El1 s)
      | sctlr2El1 =>
        obtain ⟨hp, hr⟩ := (routeEl1Name_sctlr2El1_iff .write s).1 hr
        exact ⟨t, rfl, hp, hr, rfl⟩
    · exact absurd rfl hc

/-- Settles O57: of the events only the reset and the one that supplies it change SCTLR2_EL1, of the forms only its
write. -/
theorem sctlr2El1ChangesOnlyByItsWrite : Obligations.Sctlr2El1ChangesOnlyByItsWrite := by
  intro s u h hc
  obtain ⟨e, ts, ht, h⟩ | ⟨hpe, i, hf, h⟩ := step_next h
  · by_cases hr : ∃ r, e = .reset r
    · obtain ⟨r, rfl⟩ := hr
      exact .inl ⟨r, eventTurn_of_turns ht⟩
    · obtain ⟨-, -, -, hv | rfl⟩ := runEvent_next_registers h (not_exists.1 hr)
      · exact absurd hv hc
      · exact .inr (.inl (eventTurn_of_turns ht))
  · obtain ⟨t, rfl, hp, hreach, hv⟩ := exec_next_sctlr2El1 h hc
    exact .inr (.inr ⟨hpe, hp, t, hf, hreach, hv⟩)

/-! ### The environment's own events -/

theorem getElem_wordToBytes_little (v : Word) {k : Nat} (h : k < (wordToBytes .little v).length) :
    (wordToBytes .little v)[k] = v.extractLsb' (8 * k) 8 := by
  simp [wordToBytes]

theorem getElem_wordToBytes_big (v : Word) {k : Nat} (h : k < (wordToBytes .big v).length) :
    (wordToBytes .big v)[k] = v.extractLsb' (8 * (7 - k)) 8 := by
  simp [wordToBytes, List.getElem_reverse]

/-- A store to the slot puts the value's bytes at the slot's eight addresses (R51, R53). -/
theorem read_writeSlot_inside (v : Word) (s : State) (k : Fin 8) :
    (writeSlot v s).mem.read (slotAddr s.cfg + k) =
      some ((wordToBytes s.cfg.nvmemByteOrder v)[k.val]'(by simp)) :=
  Memory.read_writeList_inside s.mem _ _ _

theorem read_writeSlot_outside (v : Word) (s : State) {a : Nat} (h : a < slotAddr s.cfg ∨ slotAddr s.cfg + 8 ≤ a) :
    (writeSlot v s).mem.read a = s.mem.read a :=
  Memory.read_writeList_outside s.mem _ _ (by simpa using h)

/-- New inputs that leave SCR_EL3.SCTLR2En as it is open no window (R149). -/
theorem onSetInputs_of_same {c : Ctx} {s : State} (h : c.scrSctlr2En = s.ctx.scrSctlr2En) :
    onSetInputs c s = .next { s with ctx := c } := by
  simp [onSetInputs, h]

theorem onSlotStore_of_aligned {s : State} (h : s.cfg.nvmemBase.toNat % 8 = 0) (v : Word) :
    onSlotStore v s = .next (writeSlot v s) := by
  simp [onSlotStore, h]

theorem onSlotStore_of_misaligned {s : State} (h : s.cfg.nvmemBase.toNat % 8 ≠ 0) (v : Word) :
    onSlotStore v s = .refused .nvmemMisaligned := by
  simp [onSlotStore, h]

theorem readX_congr {s u : State} (h : u.x = s.x) (r : Nat) : u.readX r = s.readX r := by
  rw [State.readX, State.readX, h]

/-- Settles O59: the events that supply an input do just that, and every other event but Reset leaves the registers. -/
theorem eventsKeepRegisters : Obligations.EventsKeepRegisters := by
  refine ⟨fun s t v => ⟨rfl, rfl, rfl⟩, fun s c hc => onSetInputs_of_same hc, fun s v => ⟨fun h => ?_, fun h => ?_⟩,
    fun s u e h hr => ?_⟩
  · exact onSlotStore_of_misaligned h v
  · refine ⟨writeSlot v s, onSlotStore_of_aligned h v, fun k => (read_writeSlot_inside v s k).trans ?_,
      fun a ha => read_writeSlot_outside v s ha, rfl⟩
    cases s.cfg.nvmemByteOrder with
    | little => exact congrArg some (getElem_wordToBytes_little v _)
    | big => exact congrArg some (getElem_wordToBytes_big v _)
  · obtain ⟨h2, hx, hpc, h1⟩ := runEvent_next_registers h hr
    refine ⟨h2, fun r hn => ?_, fun hn => hpc.resolve_right fun ⟨v, he⟩ => hn v he,
      fun hn => h1.resolve_right (hn _)⟩
    obtain hx | ⟨t, v, rfl, hx⟩ := hx
    · exact readX_congr hx r
    · have hrt : r ≠ t := fun hrt => hn v (by rw [hrt])
      rw [readX_congr hx, readX_writeX_other s hrt]

/-! ### External aborts on reads -/

/-- The guard of an effect rule is its three parts (R2, R4, R30). -/
theorem effectsApply_iff (s : State) (f : ControlField) :
    effectsApply s f = true ↔ s.cfg.featSctlr2 = true ∧ implemented s.cfg f = true ∧ s.el2Enabled = true := by
  simp [effectsApply, and_assoc]

theorem abortField_eq {r : AbortedRead} {f : ControlField}
    (h : r.memType = .normal ∧ f = .enAnerr ∨ r.memType = .device ∧ f = .enAderr) : abortField r = f := by
  obtain ⟨hr, rfl⟩ | ⟨hr, rfl⟩ := h <;> simp [abortField, hr]

/-- An External abort that its field governs (R117 to R120). -/
theorem onExternalAbort_of_governed {r : AbortedRead} {s : State} (hr : r.regime ≠ .other)
    (hg : effectsApply s (abortField r) = true) (hc : controlsApply s s.ctx.el = true)
    (ha : asyncApplies s.cfg r = true) (route : AbortRouting) :
    onExternalAbort r route s =
      if effSeen s (abortField r) then
        deliver (pick (afterEff s).draws .sync [.async]) r route { s with draws := (afterEff s).draws + 1 }
      else deliver (if syncImpossible s.cfg r then .fatal else .sync) r route (afterEff s) := by
  simp only [onExternalAbort, hr, hg, hc, ha, if_false, Bool.not_true, Bool.or_self, Bool.false_eq_true]
  cases syncImpossible s.cfg r <;> rfl

/-- Settles O42: value 1 draws one of two reports; value 0 reports synchronously, or as Fatal where that is
impossible. -/
theorem abortReports : Obligations.AbortReports := by
  intro s r route f hf ha hr hp hi hen hc
  obtain rfl := abortField_eq hf
  have hrun : runEvent (.externalAbort r route) s = _ :=
    onExternalAbort_of_governed hr (effectsApply_of hp hi hen) hc ha route
  refine ⟨fun he => ?_, fun he hs => ?_, fun he hs => ?_⟩
  · rw [if_pos he] at hrun
    have hrep := pick_mem (afterEff s).draws Report.sync [.async]
    simp only [List.mem_cons, List.not_mem_nil, or_false] at hrep
    obtain hrep | hrep := hrep <;> rw [hrep] at hrun
    · exact .inl ⟨_, hrun⟩
    · exact .inr ⟨_, hrun⟩
  · rw [if_neg (by simp [he]), if_pos hs] at hrun
    exact hrun
  · rw [if_neg (by simp [he]), if_neg (by simp [hs])] at hrun
    exact ⟨_, hrun⟩

/-! ### Realm accesses -/

/-- The record of a Realm access (R57, R59). -/
theorem runEvent_realmAccess (rg : Regime) (tr : Option Nat) (s : State) :
    runEvent (.realmAccess rg tr) s =
      .next { s with lastRealm := some ⟨rg, (realmAttribute tr s).1⟩, draws := (realmAttribute tr s).2 } := rfl

theorem realmAttribute_of_unguarded {s : State}
    (h : ¬(s.cfg.featSctlr2 = true ∧ s.cfg.implEmec = true ∧ s.el2Enabled = true)) (tr : Option Nat) :
    (realmAttribute tr s).1 = false := by
  have hg : effectsApply s .emec = false := Bool.eq_false_iff.2 fun hg => h ((effectsApply_iff s .emec).1 hg)
  rw [realmAttribute_of_not_effectsApply hg]

/-- At a controlled level with no hit, the record says `MecEnabled` of the value seen (R59). -/
theorem realmAttribute_eq_mecEnabled {s : State} (hc : controlsApply s s.ctx.el = true) {tr : Option Nat}
    (ht : tlbHit s tr = none) : (realmAttribute tr s).1 = mecEnabled s (effSeen s .emec) := by
  unfold mecEnabled
  cases hg : effectsApply s .emec with
  | false => rw [realmAttribute_of_not_effectsApply hg, Bool.false_and]
  | true => rw [realmAttribute_of_no_hit hg hc ht, Bool.true_and]

theorem tlbHit_eq_none {s : State} {tr : Option Nat} (h : ∀ k ∈ tr, ∀ c ∈ s.tlbEmec, c.translation ≠ k) :
    tlbHit s tr = none := by
  cases tr with
  | none => rfl
  | some k =>
    rw [tlbHit, Option.bind_some, List.find?_eq_none]
    exact fun c hc => by simpa using h k rfl c hc

/-- Settles O46: with no hit at a controlled level the record says `MecEnabled` of the value seen. -/
theorem realmAccessAttribute : Obligations.RealmAccessAttribute := by
  intro s rg tr hmiss
  have hhit := tlbHit_eq_none hmiss
  refine ⟨_, _, runEvent_realmAccess rg tr s, fun hc => ?_, fun hg => realmAttribute_of_unguarded hg tr,
    fun hc hw hgate => ?_⟩
  · rw [realmAttribute_eq_mecEnabled hc hhit, mecEnabled, Bool.and_eq_true, effectsApply_iff]
    simp [implemented, and_assoc]
  · obtain ⟨h3, hen⟩ := (not_gateOpen_iff s).1 hgate
    rw [realmAttribute_eq_mecEnabled hc hhit, effSeen_of_closed hw, effNow_of_off h3 hen, mecEnabled, Bool.and_false]

/-- Settles O47: a hit under the guard draws among the current and the two remembered values. -/
theorem tlbRemembersEmec : Obligations.TlbRemembersEmec := by
  refine ⟨fun s rg k c hfind => ?_, fun s => rfl⟩
  refine ⟨_, _, runEvent_realmAccess rg (some k) s, fun hp hi hen hc => ?_,
    fun hg => realmAttribute_of_unguarded hg (some k)⟩
  rw [realmAttribute_of_hit (effectsApply_of hp hi hen) hc (show tlbHit s (some k) = some c from hfind)]
  simpa using pick_mem (afterEff s).draws (effSeen s .emec) [c.effEmec, c.mecEnabled]

/-! ### What the stored value has no effect on -/

/-- The register has no effect through this field: its guard is false, or the controls do not apply to execution at the
current Exception level (R2 to R4, R130). -/
abbrev FieldSilent (s : State) (f : ControlField) : Prop :=
  effectsApply s f = false ∨ controlsApply s s.ctx.el = false

section
variable (v : Word) (old : List Word) {s : State}

@[simp] theorem effectsApply_withStored (f : ControlField) :
    effectsApply (withStored v old s) f = effectsApply s f := rfl

@[simp] theorem controlsApply_withStored (el : EL) : controlsApply (withStored v old s) el = controlsApply s el := rfl

@[simp] theorem withStored_ctx : (withStored v old s).ctx = s.ctx := rfl

@[simp] theorem withStored_pendingSErrors : (withStored v old s).pendingSErrors = s.pendingSErrors := rfl

@[simp] theorem withStored_draws : (withStored v old s).draws = s.draws := rfl

theorem easeVector_withStored {target : EL} (h : target ≠ .el2 ∨ effectsApply s .ease = false)
    (src : VectorSource) : easeVector target src (withStored v old s) = easeVector target src s := by
  obtain h | h := h <;> simp [easeVector, h]

theorem realmAttribute_withStored (h : FieldSilent s .emec) (tr : Option Nat) :
    realmAttribute tr (withStored v old s) = realmAttribute tr s := by
  obtain h | h := h <;> simp [realmAttribute, h]

theorem onRealmAccess_withStored (h : FieldSilent s .emec) (rg : Regime) (tr : Option Nat) :
    onRealmAccess rg tr (withStored v old s) = mapNext (withStored v old) (onRealmAccess rg tr s) := by
  rw [onRealmAccess, realmAttribute_withStored v old h]
  rfl

theorem deliver_withStored {route : AbortRouting} (h : route.syncTarget ≠ .el2 ∨ effectsApply s .ease = false)
    (rep : Report) (r : AbortedRead) :
    deliver rep r route (withStored v old s) = mapNext (withStored v old) (deliver rep r route s) := by
  cases rep with
  | sync => rw [deliver, easeVector_withStored v old h]; rfl
  | async => rfl
  | fatal => rfl

/-- Where its field is silent, an External abort gives any of the three reports (log 20). -/
theorem onExternalAbort_of_silent {r : AbortedRead} (hr : r.regime ≠ .other) (h : FieldSilent s (abortField r))
    (route : AbortRouting) :
    onExternalAbort r route s =
      deliver (pick s.draws .sync [.async, .fatal]) r route { s with draws := s.draws + 1 } := by
  obtain h | h := h <;> simp [onExternalAbort, hr, h]

theorem onExternalAbort_withStored {r : AbortedRead} {route : AbortRouting} (h : FieldSilent s (abortField r))
    (hv : route.syncTarget ≠ .el2 ∨ effectsApply s .ease = false) :
    onExternalAbort r route (withStored v old s) = mapNext (withStored v old) (onExternalAbort r route s) := by
  by_cases hr : r.regime = .other
  · simp only [onExternalAbort, hr, if_true, mapNext]
  · rw [onExternalAbort_of_silent hr h, onExternalAbort_of_silent (s := withStored v old s) hr h]
    exact deliver_withStored v old (s := { s with draws := s.draws + 1 }) hv _ r

theorem onSyncExternalAbort_withStored {target : EL} (h : target ≠ .el2 ∨ effectsApply s .ease = false)
    (src : VectorSource) :
    onSyncExternalAbort target src (withStored v old s) =
      mapNext (withStored v old) (onSyncExternalAbort target src s) := by
  rw [onSyncExternalAbort, easeVector_withStored v old h, onSyncExternalAbort]
  cases easeVector target src s <;> rfl

/-- Where NMEA is silent, a pending SError is refused and a missing one does nothing (R122, log 21). -/
theorem onTakeSError_of_silent (h : FieldSilent s .nmea) (k : Nat) (sp : StackPointer) :
    onTakeSError k sp s =
      s.pendingSErrors[k]?.elim (.next s) (fun target => .refused (.serrorOutsideControl target)) := by
  have hs : effectsApply s .nmea = false ∨ s.ctx.el ≠ .el2 :=
    h.imp id fun hc he => by simp [controlsApply, he] at hc
  unfold onTakeSError
  cases s.pendingSErrors[k]? with
  | none => rfl
  | some target => obtain hs | hs := hs <;> simp [hs]

theorem onTakeSError_withStored (h : FieldSilent s .nmea) (k : Nat) (sp : StackPointer) :
    onTakeSError k sp (withStored v old s) = mapNext (withStored v old) (onTakeSError k sp s) := by
  rw [onTakeSError_of_silent h, onTakeSError_of_silent (s := withStored v old s) h, withStored_pendingSErrors]
  cases s.pendingSErrors[k]? <;> rfl

/-- Where EnIDCP128 is silent, an access to a 128-bit register is refused, by one of three names (R112, log 23). -/
theorem onAccess128_of_silent (h : FieldSilent s .enIdcp128) (r : SysReg) (w : InstrWord) (hp : Bool) :
    onAccess128 r w hp s = .refused (
      if !s.cfg.impdef128Sysregs.contains r then .not128Register r
      else if hp then .higherPriorityException r
      else .access128OutsideControl r) := by
  have hs : (!effectsApply s .enIdcp128 || !controlsApply s s.ctx.el) = true := by
    obtain h | h := h <;> simp [h]
  unfold onAccess128
  rw [if_pos hs]
  split
  · rfl
  · split <;> rfl

theorem onAccess128_withStored (h : FieldSilent s .enIdcp128) (r : SysReg) (w : InstrWord) (hp : Bool) :
    onAccess128 r w hp (withStored v old s) = mapNext (withStored v old) (onAccess128 r w hp s) := by
  rw [onAccess128_of_silent h, onAccess128_of_silent (s := withStored v old s) h]
  rfl

end

/-- An effect event goes the same way whatever is stored, where every field is silent; EASE, which speaks of aborts taken
to EL2 from whatever level (R115), needs its guard false or no such abort (R3, R4, R130). -/
theorem runEvent_withStored (v : Word) (old : List Word) {s : State} {e : Event} (he : e.isEffect = true)
    (hf : ∀ f, FieldSilent s f)
    (hv : effectsApply s .ease = false ∨
      (∀ target src, e ≠ .syncExternalAbort target src) ∧
        ∀ r route, e = .externalAbort r route → route.syncTarget ≠ .el2) :
    runEvent e (withStored v old s) = mapNext (withStored v old) (runEvent e s) := by
  cases e with
  | realmAccess rg tr => exact onRealmAccess_withStored v old (hf _) rg tr
  | externalAbort r route => exact onExternalAbort_withStored v old (hf _) (hv.symm.imp (fun h => h.2 r route rfl) id)
  | syncExternalAbort target src =>
    exact onSyncExternalAbort_withStored v old (.inr (hv.resolve_right fun h => h.1 target src rfl)) src
  | takeSError k sp => exact onTakeSError_withStored v old (hf _) k sp
  | access128 r w hp => exact onAccess128_withStored v old (hf _) r w hp
  | _ => cases he

theorem Event.ne_reset_of_isEffect {e : Event} (he : e.isEffect = true) (r : ResetInputs) : e ≠ .reset r := by
  rintro rfl
  cases he

/-- Where it reaches the register, the write form that names SCTLR2_EL2 writes it and falls through (R88, R91). -/
theorem exec_msrSctlr2El2_of_reaches {s : State} (hp : Present s) (hr : El2NameReaches s) (t : Nat) :
    exec (.msrSctlr2El2 t) s = .next (writeSctlr2El2 .sctlr2El2 (s.readX t) s).advance := by
  show performWrite _ _ _ (routeEl2Name s) s = _
  rw [routeEl2Name_of_reaches hp hr]
  rfl

/-- The controls apply at EL2 and, with AppliesAtEL0, at EL0 alone (R3). -/
theorem controlsApply_eq_false {s : State} (h2 : s.ctx.el ≠ .el2)
    (h0 : ¬(s.ctx.el = .el0 ∧ s.cfg.featVhe = true ∧ s.ctx.hcrE2h = true ∧ s.ctx.hcrTge = true)) :
    controlsApply s s.ctx.el = false := by
  rw [Bool.eq_false_iff]
  intro hc
  simp only [controlsApply, appliesAtEl0, Bool.or_eq_true, Bool.and_eq_true, beq_iff_eq] at hc
  obtain hc | ⟨he, ⟨hvhe, he2h⟩, htge⟩ := hc
  · exact h2 hc
  · exact h0 ⟨he, hvhe, he2h, htge⟩

/-- Settles O49: without EL2 every field's guard is false; at a level that is not controlled every field but EASE is
silent. -/
theorem noEffectWithoutEl2 : Obligations.NoEffectWithoutEl2 := by
  refine ⟨fun s v old hen => ⟨fun e he => ⟨?_, fun u hu => ?_⟩, fun t hp h3 => ?_⟩,
    fun s v old e h2 h0 he hsync habort => ?_⟩
  · exact runEvent_withStored v old he (fun f => .inl (effectsApply_of_disabled hen f))
      (.inl (effectsApply_of_disabled hen .ease))
  · exact (runEvent_next_registers hu (Event.ne_reset_of_isEffect he)).1
  · have hrace : raceWith .sctlr2El2 s = none := raceWith_of_noRace (.inl (by simp [h3]))
    exact ⟨_, exec_msrSctlr2El2_of_reaches hp (.inl h3) t, storedAfter_of_no_race hrace (s.readX t)⟩
  · exact runEvent_withStored v old he (fun f => .inr (controlsApply_eq_false h2 h0)) (.inr ⟨hsync, habort⟩)

end Sys2Proof.Machine
end

section
/-! PROOFS. Family 10_state: the general registers, what the forms read and write and leave unchanged, the
ordering of the two names, effective values in and out of the write-to-effect window, RES0 bits, TLB fills, Reset, and
the invariant of every step. -/

namespace Sys2Proof.Machine

/-! ### The window of the two names -/

@[simp] theorem otherName_otherName (n : RegName) : otherName (otherName n) = n := by cases n <;> rfl

@[simp] theorem PendingAlias.before_record (p : PendingAlias) (n : RegName) (v : Word) :
    (p.record n v).before = p.before := by cases n <;> rfl

@[simp] theorem PendingAlias.writesBy_record_same (p : PendingAlias) (n : RegName) (v : Word) :
    (p.record n v).writesBy n = v :: p.writesBy n := by cases n <;> rfl

@[simp] theorem PendingAlias.writesBy_record_other (p : PendingAlias) (n : RegName) (v : Word) :
    (p.record n v).writesBy (otherName n) = p.writesBy (otherName n) := by cases n <;> rfl

theorem PendingAlias.mem_writes {p : PendingAlias} {n : RegName} {v : Word} (h : v ∈ p.writesBy n) :
    v ∈ p.byEl2 ++ p.byEl1 := by
  cases n with
  | sctlr2El2 => exact List.mem_append_left _ h
  | sctlr2El1 => exact List.mem_append_right _ h

/-- Recording a write adds it to the window's writes. -/
theorem PendingAlias.mem_record_writes {p : PendingAlias} {n : RegName} {v w : Word}
    (h : w ∈ (p.record n v).byEl2 ++ (p.record n v).byEl1) : w = v ∨ w ∈ p.byEl2 ++ p.byEl1 := by
  cases n <;> simp only [record, List.mem_append, List.mem_cons] at h ⊢ <;> tauto

theorem PendingAlias.record_ne_nil (p : PendingAlias) (n : RegName) (v : Word) :
    (p.record n v).byEl2 ++ (p.record n v).byEl1 ≠ [] := by
  cases n <;> simp [record]

/-- What program order gives an access by a name is the value before the window or a write of it. -/
theorem PendingAlias.ownView_mem (p : PendingAlias) (n : RegName) :
    p.ownView n = p.before ∨ p.ownView n ∈ p.writesBy n := by
  unfold ownView
  cases p.writesBy n with
  | nil => exact .inl rfl
  | cons w ws => exact .inr List.mem_cons_self

/-- Where the ordering statement applies, a write opens the window with the old stored value, or extends it (R42). -/
theorem aliasAfter_of_applies {s : State} (h : aliasApplies s = true) (n : RegName) (v : Word) :
    aliasAfter n v s =
      some ((s.pendingAlias.getD ⟨s.sctlr2El2, [], []⟩).record n (writeFilter s.cfg v)) :=
  if_pos h

theorem aliasAfter_of_not_applies {s : State} (h : ¬aliasApplies s = true) (n : RegName) (v : Word) :
    aliasAfter n v s = s.pendingAlias :=
  if_neg h

/-! ### The invariant -/

/-- The values a window remembers are within KeepMask, and it holds a write, under FEAT_VHE: what `Inv` says of the
window of the two names. -/
def WindowLawful (cfg : Config) (p : PendingAlias) : Prop :=
  (Kept cfg p.before ∧ ∀ v ∈ p.byEl2 ++ p.byEl1, Kept cfg v) ∧ cfg.featVhe = true ∧ p.byEl2 ++ p.byEl1 ≠ []

theorem inv_iff (s : State) :
    Inv s ↔ s.mem.wf ∧ Kept s.cfg s.sctlr2El2 ∧ (∀ v ∈ s.effectWindow.oldStored, Kept s.cfg v) ∧
      ∀ p ∈ s.pendingAlias, WindowLawful s.cfg p := by
  constructor
  · rintro ⟨hm, hs, ho, hk, hw⟩
    exact ⟨hm, hs, ho, fun p hp => ⟨hk p hp, hw p hp⟩⟩
  · rintro ⟨hm, hs, ho, hp⟩
    exact ⟨hm, hs, ho, fun p h => (hp p h).1, fun p h => (hp p h).2⟩

/-- The invariant speaks of memory, the register and the values replaced or raced with alone. -/
theorem Inv.of_same {s u : State} (h : Inv s) (hc : u.cfg = s.cfg) (hm : u.mem.wf) (hs : u.sctlr2El2 = s.sctlr2El2)
    (ho : u.effectWindow.oldStored = s.effectWindow.oldStored) (ha : u.pendingAlias = s.pendingAlias) : Inv u := by
  rw [inv_iff] at h ⊢
  obtain ⟨-, h⟩ := h
  rw [hc, hs, ho, ha]
  exact ⟨hm, h⟩

/-- With the hidden items empty, canonical memory and a kept register are all of the invariant (R45). -/
theorem Inv.of_empty {s : State} (hm : s.mem.wf) (hs : Kept s.cfg s.sctlr2El2) (ho : s.effectWindow = ⟨[], []⟩)
    (ha : s.pendingAlias = none) : Inv s := by
  rw [inv_iff, ho, ha]
  exact ⟨hm, hs, by simp, by simp⟩

theorem WindowLawful.kept_ownView {cfg : Config} {p : PendingAlias} (h : WindowLawful cfg p) (n : RegName) :
    Kept cfg (p.ownView n) := by
  obtain ⟨⟨hb, hk⟩, -⟩ := h
  obtain hv | hv := p.ownView_mem n
  · rw [hv]
    exact hb
  · exact hk _ (PendingAlias.mem_writes hv)

/-- Recording a filtered write under FEAT_VHE gives a lawful window, also where it is the first. -/
theorem windowLawful_record {cfg : Config} {p : PendingAlias} (hv : cfg.featVhe = true) (hb : Kept cfg p.before)
    (hk : ∀ v ∈ p.byEl2 ++ p.byEl1, Kept cfg v) (n : RegName) (v : Word) :
    WindowLawful cfg (p.record n (writeFilter cfg v)) := by
  refine ⟨⟨by rwa [PendingAlias.before_record], fun w hw => ?_⟩, hv, p.record_ne_nil n _⟩
  obtain rfl | hw := PendingAlias.mem_record_writes hw
  · exact kept_writeFilter cfg v
  · exact hk w hw

/-- What a write leaves stored is kept: a filtered value, or in a race a value of a lawful window (R29, R62). -/
theorem Inv.kept_storedAfter {s : State} (h : Inv s) (n : RegName) (v : Word) : Kept s.cfg (storedAfter n v s) := by
  obtain ⟨-, -, -, hl⟩ := (inv_iff s).1 h
  cases hr : raceWith n s with
  | none =>
    rw [storedAfter_of_no_race hr]
    exact kept_writeFilter _ _
  | some p =>
    obtain hv | hv := storedAfter_of_race hr v <;> rw [hv]
    · exact kept_writeFilter _ _
    · exact (hl p (raceWith_some hr).2.1).kept_ownView _

theorem Inv.kept_windowAfter {s : State} (h : Inv s) (n : RegName) (v : Word) :
    ∀ w ∈ (windowAfter n v s).oldStored, Kept s.cfg w := by
  have old : ∀ w ∈ s.sctlr2El2 :: s.effectWindow.oldStored, Kept s.cfg w :=
    List.forall_mem_cons.2 ⟨h.stored, h.oldStored⟩
  unfold windowAfter
  split
  · exact old
  · exact List.forall_mem_cons.2 ⟨kept_writeFilter _ _, old⟩

theorem Inv.lawful_aliasAfter {s : State} (h : Inv s) (n : RegName) (v : Word) :
    ∀ p ∈ aliasAfter n v s, WindowLawful s.cfg p := by
  obtain ⟨-, hs, -, hl⟩ := (inv_iff s).1 h
  by_cases ha : aliasApplies s = true
  · rw [aliasAfter_of_applies ha]
    obtain ⟨hv, -⟩ := (aliasApplies_iff s).1 ha
    rintro p ⟨⟩
    cases hp : s.pendingAlias with
    | none => exact windowLawful_record hv hs (by simp) n v
    | some q =>
      obtain ⟨⟨hb, hk⟩, -⟩ := hl q hp
      exact windowLawful_record hv hb hk n v
  · rw [aliasAfter_of_not_applies ha]
    exact hl

/-- Writing SCTLR2_EL2 by either name keeps the invariant, in a race too (R29, R42, R43, R62). -/
theorem Inv.writeSctlr2El2 {s : State} (h : Inv s) (n : RegName) (v : Word) : Inv (writeSctlr2El2 n v s) :=
  (inv_iff _).2 ⟨h.memory, h.kept_storedAfter n v, h.kept_windowAfter n v, h.lawful_aliasAfter n v⟩

theorem exec_keeps_inv {i : Instr} {s u : State} (h : exec i s = .next u) (hi : Inv s) : Inv u := by
  obtain ⟨n, d, t, rfl⟩ := exists_form i
  cases d with
  | read =>
    rw [exec_read] at h
    obtain ⟨-, rfl⟩ | ⟨-, rfl⟩ | ⟨-, -, rfl⟩ := performRead_next h <;>
      exact hi.of_same rfl hi.memory rfl rfl rfl
  | write =>
    rw [exec_write] at h
    obtain ⟨-, rfl⟩ | ⟨-, rfl⟩ | ⟨-, hs, rfl⟩ := performWrite_next h
    · have hw := hi.writeSctlr2El2 n (s.readX t)
      exact hw.of_same rfl hw.memory rfl rfl rfl
    · exact hi.of_same rfl hi.memory rfl rfl rfl
    · exact hi.of_same rfl (writeSlot_mem_wf hi.memory ((slotRefusal_none_iff s).1 hs).1 _) rfl rfl rfl

/-! ### What the events do to the hidden items -/

/-- An effect event that does not stop the machine changes the pending SErrors, the Realm record and the draw counter
alone. -/
theorem runEvent_next_of_isEffect {e : Event} {s u : State} (he : e.isEffect = true) (h : runEvent e s = .next u) :
    u = { s with pendingSErrors := u.pendingSErrors, lastRealm := u.lastRealm, draws := u.draws } := by
  cases e with
  | realmAccess rg tr => cases h; rfl
  | externalAbort r route =>
    by_cases hr : r.regime = .other
    · simp only [runEvent, onExternalAbort, hr, if_true] at h
      cases h
    · obtain ⟨rep, n, hd⟩ := onExternalAbort_delivers hr route s
      rw [runEvent, hd] at h
      rw [(deliver_next h).2]
  | syncExternalAbort target src =>
    simp only [runEvent, onSyncExternalAbort, raise] at h
    split at h <;> cases h
  | takeSError index sp =>
    simp only [runEvent, onTakeSError, raise] at h
    (repeat' split at h) <;> cases h <;> rfl
  | access128 r word hp =>
    simp only [runEvent, onAccess128, raiseSysTrap, raise] at h
    (repeat' split at h) <;> cases h
  | _ => cases he

/-- The windows over every event: a Reset and a Sync empty them, a change of SCR_EL3.SCTLR2En adds to the
write-to-effect window, and no other event touches them (R45, R63, R149). -/
theorem runEvent_next_windows {e : Event} {s u : State} (h : runEvent e s = .next u) :
    ((∃ r, e = .reset r) ∨ e = .sync) ∧ u.pendingAlias = none ∧ u.effectWindow = ⟨[], []⟩ ∨
    u.pendingAlias = s.pendingAlias ∧ u.effectWindow.oldStored = s.effectWindow.oldStored ∧
      s.effectWindow.oldSctlr2En <:+ u.effectWindow.oldSctlr2En := by
  have effect (he : e.isEffect = true) : u.pendingAlias = s.pendingAlias ∧
      u.effectWindow.oldStored = s.effectWindow.oldStored ∧
      s.effectWindow.oldSctlr2En <:+ u.effectWindow.oldSctlr2En := by
    rw [runEvent_next_of_isEffect he h]
    exact ⟨rfl, rfl, List.suffix_refl _⟩
  cases e with
  | reset r => cases h; exact .inl ⟨.inl ⟨r, rfl⟩, rfl, rfl⟩
  | sync => cases h; exact .inl ⟨.inr rfl, rfl, rfl⟩
  | setInputs c =>
    cases h
    refine .inr ⟨rfl, rfl, ?_⟩
    show _ <:+ ite _ _ _
    split
    · exact List.suffix_refl _
    · exact List.suffix_cons _ _
  | slotStore v =>
    simp only [runEvent, onSlotStore] at h
    split at h <;> cases h
    exact .inr ⟨rfl, rfl, List.suffix_refl _⟩
  | realmAccess | externalAbort | syncExternalAbort | takeSError | access128 => exact .inr (effect rfl)
  | _ => cases h; exact .inr ⟨rfl, rfl, List.suffix_refl _⟩

/-- The register after an event: a Reset draws and filters it, no other event changes it (R32, R45). -/
theorem runEvent_next_sctlr2El2 {e : Event} {s u : State} (h : runEvent e s = .next u) :
    u.sctlr2El2 = s.sctlr2El2 ∨ (∃ r, e = .reset r) ∧ u.sctlr2El2 = writeFilter s.cfg (Config.resetValue s.draws) := by
  by_cases hr : ∃ r, e = .reset r
  · obtain ⟨r, rfl⟩ := hr
    cases h
    exact .inr ⟨⟨r, rfl⟩, rfl⟩
  · exact .inl (runEvent_next_registers h (not_exists.1 hr)).1

/-- Events keep memory canonical: the one that writes it stores at an aligned slot (R52, R54). -/
theorem runEvent_keeps_mem_wf {e : Event} {s u : State} (h : runEvent e s = .next u) (hm : s.mem.wf) : u.mem.wf := by
  obtain ⟨r, -, h⟩ | ⟨c, -, h⟩ | ⟨t, v, -, rfl⟩ | ⟨v, -, rfl⟩ | ⟨v, -, rfl⟩ | ⟨v, rfl, rfl⟩ | hu := runEvent_next h
  · cases h; exact hm
  · cases h; exact hm
  · exact hm
  · exact hm
  · exact hm
  · by_cases ha : s.cfg.nvmemBase.toNat % 8 = 0
    · exact writeSlot_mem_wf hm ha v
    · rw [runEvent, onSlotStore_of_misaligned ha] at h
      cases h
  · rw [hu]
    exact hm

theorem runEvent_keeps_inv {e : Event} {s u : State} (h : runEvent e s = .next u) (hi : Inv s) : Inv u := by
  have hm := runEvent_keeps_mem_wf h hi.memory
  have hc := runEvent_next_cfg h
  have hk : Kept s.cfg u.sctlr2El2 := by
    obtain hs | ⟨-, hs⟩ := runEvent_next_sctlr2El2 h <;> rw [hs]
    · exact hi.stored
    · exact kept_writeFilter _ _
  obtain ⟨-, ha, hw⟩ | ⟨ha, ho, -⟩ := runEvent_next_windows h
  · exact .of_empty hm (by rwa [hc]) hw ha
  · obtain ⟨-, -, hold, hl⟩ := (inv_iff s).1 hi
    rw [inv_iff, ha, ho, hc]
    exact ⟨hm, hk, hold, hl⟩

/-- Settles O53: events and forms keep the invariant, which does not speak of the turns. -/
theorem stepKeepsInvariant : Obligations.StepKeepsInvariant := by
  intro s u hi h
  obtain ⟨e, ts, -, h⟩ | ⟨-, i, -, h⟩ := step_next h
  · exact runEvent_keeps_inv h (hi.of_same rfl hi.memory rfl rfl rfl)
  · exact exec_keeps_inv h (hi.of_same rfl hi.memory rfl rfl rfl)

/-- Settles O52: the register after reset is filtered (R45), and the rest is empty. -/
theorem resetStateMeetsInvariant : Obligations.ResetStateMeetsInvariant :=
  ⟨.of_empty ⟨.nil, by simp [State.reset]⟩ (kept_writeFilter _ _) rfl rfl, rfl, rfl, rfl, rfl⟩

/-- Settles O51: the register after a Reset event is a filtered draw, and the draw is used up. -/
theorem resetEvent : Obligations.ResetEvent := by
  intro s r
  exact ⟨_, rfl, rfl, kept_writeFilter _ _, rfl, rfl, rfl, Nat.succ_ne_self _, rfl, rfl, rfl, rfl, rfl, rfl⟩

/-! ### The general registers -/

/-- Settles O8: the reads and writes of X0 to X30, and of the zero register. -/
theorem generalRegisterLaws : Obligations.GeneralRegisterLaws :=
  fun s v => ⟨readX_of_ge s le_rfl, writeX_of_ge s le_rfl v,
    fun _ ht => ⟨readX_writeX_same s ht v, fun _ hr => readX_writeX_other s hr v⟩⟩

/-! ### The forms along their routes -/

section
variable {n : RegName} {s : State}

theorem exec_read_of_sctlr2El2 (h : routeOf n .read s = .sctlr2El2) (t : Nat) :
    exec (form n .read t) s = .next ((afterRead n s).writeX t (readValue n s)).advance := by
  rw [exec_read, h]
  rfl

theorem exec_write_of_sctlr2El2 (h : routeOf n .write s = .sctlr2El2) (t : Nat) :
    exec (form n .write t) s = .next (writeSctlr2El2 n (s.readX t) s).advance := by
  rw [exec_write, h]
  rfl

/-- Without a race a read of SCTLR2_EL2 returns the stored value and makes no draw (R32). -/
theorem exec_read_of_no_race (h : routeOf n .read s = .sctlr2El2) (hrace : raceWith n s = none) (t : Nat) :
    exec (form n .read t) s = .next (s.writeX t s.sctlr2El2).advance := by
  rw [exec_read_of_sctlr2El2 h, readValue_of_no_race hrace, afterRead_of_no_race hrace]

/-- Without a race a write of SCTLR2_EL2 stores the filtered value and makes no draw (R29, R43). -/
theorem exec_write_of_no_race (h : routeOf n .write s = .sctlr2El2) (hrace : raceWith n s = none) (t : Nat) :
    exec (form n .write t) s = .next { s with
      sctlr2El2 := writeFilter s.cfg (s.readX t)
      pendingAlias := aliasAfter n (s.readX t) s
      effectWindow := { s.effectWindow with oldStored := s.sctlr2El2 :: s.effectWindow.oldStored }
      pc := s.pc + 4#64 } := by
  rw [exec_write_of_sctlr2El2 h, writeSctlr2El2, storedAfter_of_no_race hrace, windowAfter_of_no_race hrace,
    drawsAfter, hrace]
  rfl

/-- In a race the written value joins the write-to-effect window after the one it replaced (R43; log 12). -/
theorem windowAfter_of_race {p : PendingAlias} (h : raceWith n s = some p) (v : Word) :
    windowAfter n v s = { s.effectWindow with
      oldStored := writeFilter s.cfg v :: s.sctlr2El2 :: s.effectWindow.oldStored } := by
  simp [windowAfter, h]

/-- At EL2 with E2H both names reach SCTLR2_EL2 through an open gate (R91 row 6, R92 row 12). -/
theorem routeOf_el2_e2h (hp : Present s) (he : s.ctx.el = .el2) (hg : GateOpen s) (h2h : s.ctx.hcrE2h = true)
    (n : RegName) (d : Direction) : routeOf n d s = .sctlr2El2 := by
  cases n with
  | sctlr2El2 => exact routeEl2Name_of_reaches hp (.inr ⟨he, hg⟩)
  | sctlr2El1 => exact (routeEl1Name_el2 hp he hg).trans (if_pos h2h)

/-- A write by a name brings no race to the next access by the same name (R62). -/
theorem noRace_writeSctlr2El2 (h : NoRace n s) (v : Word) : NoRace n (writeSctlr2El2 n v s) := by
  refine h.imp id fun hp q hq => ?_
  rw [writeSctlr2El2_pendingAlias] at hq
  by_cases ha : aliasApplies s = true
  · rw [aliasAfter_of_applies ha] at hq
    cases hq
    rw [PendingAlias.writesBy_record_other]
    cases hs : s.pendingAlias with
    | none => cases n <;> rfl
    | some p => exact hp p hs
  · rw [aliasAfter_of_not_applies ha] at hq
    exact hp q hq

end

/-! ### The forms complete -/

/-- Settles O12: the route reaches the register, and without a race the read makes no draw. -/
theorem readByEl2NameCompletes : Obligations.ReadByEl2NameCompletes :=
  fun _ t _ hp hreach hrace =>
    exec_read_of_no_race (n := .sctlr2El2) (routeEl2Name_of_reaches hp hreach) (raceWith_of_noRace hrace) t

/-- Settles O13: the route reaches the register, and the window of the two names grows exactly where
the ordering statement applies. -/
theorem writeByEl2NameCompletes : Obligations.WriteByEl2NameCompletes := by
  intro s t _ hp hreach hrace
  refine (exec_write_of_no_race (n := .sctlr2El2) (routeEl2Name_of_reaches hp hreach)
    (raceWith_of_noRace hrace) t).trans ?_
  by_cases ha : aliasApplies s = true
  · rw [aliasAfter_of_applies ha, if_pos ((aliasApplies_iff s).1 ha)]
    cases s.pendingAlias <;> rfl
  · rw [aliasAfter_of_not_applies ha, if_neg (mt (aliasApplies_iff s).2 ha)]
    rfl

/-- Settles O17: the name SCTLR2_EL1 is routed to SCTLR2_EL2 (R92 row 12). -/
theorem readByEl1NameReachesSctlr2El2 : Obligations.ReadByEl1NameReachesSctlr2El2 :=
  fun _ t _ hp he hg h2h hrace =>
    exec_read_of_no_race (routeOf_el2_e2h hp he hg h2h .sctlr2El1 .read) (raceWith_of_noRace hrace) t

/-- Settles O18: with E2H at EL2 the ordering statement applies exactly where FEAT_VHE does. -/
theorem writeByEl1NameReachesSctlr2El2 : Obligations.WriteByEl1NameReachesSctlr2El2 := by
  intro s t _ hp he hg h2h hrace
  refine (exec_write_of_no_race (routeOf_el2_e2h hp he hg h2h .sctlr2El1 .write)
    (raceWith_of_noRace hrace) t).trans ?_
  by_cases hv : s.cfg.featVhe = true
  · rw [aliasAfter_of_applies ((aliasApplies_iff s).2 ⟨hv, h2h, he⟩), if_pos hv]
    cases s.pendingAlias <;> rfl
  · rw [aliasAfter_of_not_applies fun ha => hv ((aliasApplies_iff s).1 ha).1, if_neg hv]
    rfl

/-- Settles O19: the route is SCTLR2_EL1 (rows 9, 13 and 14 of R92). -/
theorem el1NameReachesSctlr2El1 : Obligations.El1NameReachesSctlr2El1 := by
  intro s t _ hp
  refine ⟨fun h => ?_, fun h => ?_⟩
  · show performRead _ _ _ (routeEl1Name .read s) s = _
    rw [routeEl1Name_of_reachesEl1 hp h]
    rfl
  · show performWrite _ _ _ (routeEl1Name .write s) s = _
    rw [routeEl1Name_of_reachesEl1 hp h]
    rfl

/-- Settles O14: the write brings no race to the read, which returns what the write stored. -/
theorem writeThenReadGivesFiltered : Obligations.WriteThenReadGivesFiltered := by
  intro s t r _ hr hp hreach hrace
  have hstored := storedAfter_of_no_race (raceWith_of_noRace hrace) (s.readX t)
  refine ⟨_, _, exec_msrSctlr2El2_of_reaches hp hreach t,
    readByEl2NameCompletes _ r (by omega) hp hreach (noRace_writeSctlr2El2 hrace (s.readX t)), ?_, hstored, ?_,
    fun q hq => readX_writeX_other _ hq _⟩
  · exact (readX_writeX_same _ hr _).trans hstored
  · show s.pc + 4#64 + 4#64 = s.pc + 8#64
    rw [BitVec.add_assoc]
    rfl

/-- The bit of a field that is neither implemented nor a storing RES0 bit is not kept (R28, R29). -/
theorem keepMask_unimplemented {cfg : Config} {f : ControlField} (hf : implemented cfg f = false)
    (hr : cfg.res0StorageMask.getLsbD (fieldPos cfg f) = false) :
    (keepMask cfg).getLsbD (fieldPos cfg f) = false := by
  have : (funcMask cfg).getLsbD (fieldPos cfg f) = false := by
    rw [getLsbD_funcMask, List.any_eq_false]
    intro g _ hg
    simp only [Bool.and_eq_true, decide_eq_true_eq] at hg
    obtain ⟨⟨hgi, -⟩, hpos⟩ := hg
    rw [fieldPos_inj cfg hpos, hgi] at hf
    cases hf
  simp [keepMask, this, hr]

/-- Settles O15: the write stores through KeepMask, which holds the bits of the implemented fields. -/
theorem writeStoresEachField : Obligations.WriteStoresEachField := by
  intro s t _ hp hw hreach hrace
  have hstored := storedAfter_of_no_race (raceWith_of_noRace hrace) (s.readX t)
  refine ⟨_, exec_msrSctlr2El2_of_reaches hp hreach t, ?_⟩
  rw [State.advance_sctlr2El2, writeSctlr2El2_sctlr2El2, hstored]
  refine ⟨fun f hf => fieldBit_writeFilter hw hf _, fun f hf hr => ?_, fun ht => ?_⟩
  · rw [fieldBit, writeFilter, BitVec.getLsbD_and, keepMask_unimplemented hf hr, Bool.and_false]
  · rw [readX_of_ge s (by omega), writeFilter, BitVec.zero_and]

/-! ### The frames of the forms -/

/-- Settles O25: whatever a read form reached, it wrote Xt, the program counter and the draw counter. -/
theorem readFormsFrame : Obligations.ReadFormsFrame := by
  intro s u n t h
  rw [exec_read] at h
  obtain ⟨-, rfl⟩ | ⟨-, rfl⟩ | ⟨-, -, rfl⟩ := performRead_next h <;>
    exact ⟨rfl, rfl, fun r hr => readX_writeX_other _ hr _, rfl, rfl, rfl, rfl, fun _ => rfl, rfl⟩

/-- Settles O26: by the three targets of a write form. -/
theorem writeFormsFrame : Obligations.WriteFormsFrame := by
  intro s u n t h
  rw [exec_write] at h
  obtain ⟨-, rfl⟩ | ⟨-, rfl⟩ | ⟨-, -, rfl⟩ := performWrite_next h
  · exact ⟨rfl, rfl, fun _ => rfl, fun _ _ => rfl, .inl rfl⟩
  · exact ⟨rfl, rfl, fun _ => rfl, fun _ _ => rfl, .inr (.inl rfl)⟩
  · exact ⟨rfl, rfl, fun _ => rfl, fun _ ha => read_writeSlot_outside _ s ha, .inr (.inr rfl)⟩

theorem exec_next_pc {i : Instr} {s u : State} (h : exec i s = .next u) : u.pc = s.pc + 4#64 := by
  obtain ⟨n, d, t, rfl⟩ := exists_form i
  cases d with
  | read =>
    obtain ⟨-, hpc, -⟩ := readFormsFrame s u n t h
    exact hpc
  | write =>
    obtain ⟨-, hpc, -⟩ := writeFormsFrame s u n t h
    exact hpc

theorem aligned_of_fetchInstr {s : State} {i : Instr} (h : fetchInstr s = .ok i) : s.pc.toNat % 4 = 0 := by
  by_contra ha
  simp [fetchInstr, fetchBytes, ha] at h

theorem not_peTurn_of_turns {s : State} {e : Event} {ts : List Turn} (h : s.turns = .environment e :: ts) :
    ¬PeTurn s := by
  simp [PeTurn, h]

/-- Settles O58: a fetch succeeds at an aligned program counter only, and every form that completes adds 4. -/
theorem formsFallThrough : Obligations.FormsFallThrough := by
  intro s u hpe h
  obtain ⟨e, ts, ht, -⟩ | ⟨-, i, hf, h⟩ := step_next h
  · exact absurd hpe (not_peTurn_of_turns ht)
  · have ha := aligned_of_fetchInstr hf
    have hpc : u.pc = s.pc + 4#64 := (exec_next_pc h :)
    refine ⟨ha, hpc, ?_⟩
    rw [hpc, BitVec.toNat_add, BitVec.toNat_ofNat]
    omega

/-! ### Who changes SCTLR2_EL2 -/

/-- The name SCTLR2_EL1 reaches SCTLR2_EL2 in row 12 of R92 only. -/
theorem routeEl1Name_sctlr2El2_iff (d : Direction) (s : State) :
    routeEl1Name d s = .sctlr2El2 ↔ Present s ∧ s.ctx.el = .el2 ∧ GateOpen s ∧ s.ctx.hcrE2h = true := by
  refine ⟨fun h => ?_, fun ⟨hp, he, hg, h2h⟩ => routeOf_el2_e2h hp he hg h2h .sctlr2El1 d⟩
  obtain ⟨hp, h'⟩ := present_eq h (by simp) (by simp)
  refine ⟨hp, ?_⟩
  cases he : s.ctx.el with
  | el0 => simp [he] at h'
  | el1 =>
    simp only [he] at h'
    split at h'
    · cases h'
    split at h'
    · cases h'
    split at h'
    · cases h'
    split at h'
    · cases h'
    split at h'
    · exact absurd h' (el3Gate_stops s _ (by simp))
    split at h' <;> cases h'
  | el2 =>
    by_cases hg : GateOpen s
    · rw [routeEl1Name_el2 hp he hg] at h
      exact ⟨rfl, hg, by simpa using h⟩
    · simp only [he] at h'
      rw [el2_closed_gate hg] at h'
      split at h' <;> cases h'
  | el3 => simp [he] at h'

/-- A form that changes SCTLR2_EL2 is a write form that reached it (R88, R90). -/
theorem exec_next_sctlr2El2 {i : Instr} {s u : State} (h : exec i s = .next u) (hc : u.sctlr2El2 ≠ s.sctlr2El2) :
    ∃ n t, i = form n .write t ∧ routeOf n .write s = .sctlr2El2 := by
  obtain ⟨n, d, t, rfl⟩ := exists_form i
  cases d with
  | read =>
    obtain ⟨-, -, -, hs, -⟩ := readFormsFrame s u n t h
    exact absurd hs hc
  | write =>
    rw [exec_write] at h
    obtain ⟨hr, -⟩ | ⟨-, rfl⟩ | ⟨-, -, rfl⟩ := performWrite_next h
    · exact ⟨n, t, rfl, hr⟩
    · exact absurd rfl hc
    · exact absurd rfl hc

/-- Settles O56: of the events only a Reset changes the register, of the forms only a write that reached it. -/
theorem registerChangesOnlyByPrivilegedWrite : Obligations.RegisterChangesOnlyByPrivilegedWrite := by
  intro s u h hc
  obtain ⟨e, ts, ht, h⟩ | ⟨hpe, i, hf, h⟩ := step_next h
  · obtain hs | ⟨⟨r, rfl⟩, -⟩ := runEvent_next_sctlr2El2 h
    · exact absurd hs hc
    · exact .inl ⟨r, eventTurn_of_turns ht⟩
  · obtain ⟨n, t, rfl, hr⟩ := exec_next_sctlr2El2 h hc
    cases n with
    | sctlr2El2 =>
      obtain ⟨hf2, he2, hreach⟩ := (routeEl2Name_reaches_iff (afterTurn s)).1 hr
      exact .inr ⟨hpe, ⟨hf2, he2⟩, _, t, hf, .inl ⟨rfl, hreach.imp id (And.imp id (gateOpen_iff s).2)⟩⟩
    | sctlr2El1 =>
      obtain ⟨hp, hreach⟩ := (routeEl1Name_sctlr2El2_iff .write (afterTurn s)).1 hr
      exact .inr ⟨hpe, hp, _, t, hf, .inr ⟨rfl, hreach⟩⟩

/-! ### Ordering of the two names -/

/-- Settles O33: the first write opens the window; in it an access by its own name does not race, and one by the other
name draws. -/
theorem aliasOrdering : Obligations.AliasOrdering := by
  intro s a t _ hp hg hvhe h2h he b v
  have happ : aliasApplies s = true := (aliasApplies_iff s).2 ⟨hvhe, h2h, he⟩
  have route := routeOf_el2_e2h hp he hg h2h
  have race {p : PendingAlias} (hsome : s.pendingAlias = some p) (ha : p.writesBy a = [s.sctlr2El2]) :
      p.writesBy (otherName b) = [s.sctlr2El2] ∧ raceWith b s = some p := by
    have hother : p.writesBy (otherName b) = [s.sctlr2El2] := by rw [otherName_otherName, ha]
    exact ⟨hother, raceWith_eq_some happ hsome (by simp [hother])⟩
  refine ⟨fun hnone => ⟨(⟨s.sctlr2El2, [], []⟩ : PendingAlias).record a v, ?_, ?_, ?_, ?_⟩,
    fun p hsome ha hb => ⟨?_, ?_, ?_, rfl⟩⟩
  · rw [exec_write_of_no_race (route a .write) (raceWith_none_of_closed a hnone), aliasAfter_of_applies happ, hnone]
    rfl
  · rw [PendingAlias.before_record]
  · rw [PendingAlias.writesBy_record_same]
    cases a <;> rfl
  · rw [PendingAlias.writesBy_record_other]
    cases a <;> rfl
  · exact exec_read_of_no_race (route a .read) (raceWith_none_of_same hsome hb) t
  · obtain ⟨hother, hrace⟩ := race hsome ha
    refine ⟨_, _, exec_read_of_sctlr2El2 (route b .read) t, ?_⟩
    have hw := readValue_of_race hrace
    rw [PendingAlias.ownView, hb, hother, List.mem_singleton] at hw
    tauto
  · obtain ⟨hother, hrace⟩ := race hsome ha
    refine ⟨_, exec_write_of_sctlr2El2 (route b .write) t, ?_⟩
    have hw := storedAfter_of_race hrace (s.readX t)
    rwa [PendingAlias.ownView, hother] at hw

/-- Settles O34: an access in a race completes with a draw among the listed values. -/
theorem racesComplete : Obligations.RacesComplete := by
  intro s n t p _ hp hg hvhe h2h he hsome hw
  have happ : aliasApplies s = true := (aliasApplies_iff s).2 ⟨hvhe, h2h, he⟩
  have route := routeOf_el2_e2h hp he hg h2h n
  have hrace := raceWith_eq_some happ hsome hw
  refine ⟨⟨_, _, exec_read_of_sctlr2El2 (route .read) t, readValue_of_race hrace⟩,
    storedAfter n (s.readX t) s, drawsAfter n s, p.record n (writeFilter s.cfg (s.readX t)), ?_, ?_,
    PendingAlias.before_record .., PendingAlias.writesBy_record_same .., PendingAlias.writesBy_record_other ..⟩
  · rw [exec_write_of_sctlr2El2 (route .write), writeSctlr2El2, windowAfter_of_race hrace, aliasAfter_of_applies happ,
      hsome]
    rfl
  · refine (storedAfter_of_race hrace (s.readX t)).imp id fun hv => ?_
    rw [hv, PendingAlias.ownView]
    obtain ⟨w, ws, hws⟩ := List.exists_cons_of_ne_nil hw
    rw [hws]
    rfl

/-! ### Effective values -/

/-- Through an open gate the effective value is the FORCE_ONE condition or the stored bit (R30). -/
theorem effNow_of_gateOpen {s : State} (h : GateOpen s) (f : ControlField) :
    effNow s f = (forceOne s.cfg s.inputs f || fieldBit s.cfg s.sctlr2El2 f) := by
  have hoff : (s.cfg.haveEl3 && !s.inputs.ctx.scrSctlr2En) = false := (gateOpen_iff s).1 h
  rw [effNow, eff, hoff, if_neg Bool.false_ne_true]
  cases forceOne s.cfg s.inputs f <;> rfl

/-- With EL3's gate closed and no window open every effective value is 0 (R30). -/
theorem effSeen_of_gate_closed {s : State} (hw : s.effectWindow = ⟨[], []⟩) (hg : ¬GateOpen s) (f : ControlField) :
    effSeen s f = false := by
  obtain ⟨h3, hen⟩ := (not_gateOpen_iff s).1 hg
  rw [effSeen_of_closed hw, effNow_of_off h3 hen]

/-- Settles O35: with the window closed a use sees the current value, which R30 gives on either side of the gate. -/
theorem effectiveValues : Obligations.EffectiveValues := by
  intro s hw
  refine ⟨fun hg f => effSeen_of_gate_closed hw hg f, fun hg => ?_⟩
  have seen (f : ControlField) : effSeen s f = (forceOne s.cfg s.inputs f || fieldBit s.cfg s.sctlr2El2 f) := by
    rw [effSeen_of_closed hw, effNow_of_gateOpen hg]
  refine ⟨fun f hn hd => ?_, seen .enAnerr, seen .enAderr⟩
  rw [seen]
  cases f with
  | enAnerr => exact absurd rfl hn
  | enAderr => exact absurd rfl hd
  | _ => exact Bool.false_or _

/-- Settles O36: a use sees an old or a current value, and a Sync closes the window. -/
theorem windowUsesOldOrNew : Obligations.WindowUsesOldOrNew :=
  fun s f => ⟨effSeen_cases s f, _, rfl, effSeen_of_closed rfl f, rfl, rfl⟩

/-! ### What stays open until a Sync -/

/-- `u` remembers every replaced value of `s`, and the first old value and every write of its window of the
two names. -/
abbrev WindowsExtend (s u : State) : Prop :=
  s.effectWindow.oldStored <:+ u.effectWindow.oldStored ∧ s.effectWindow.oldSctlr2En <:+ u.effectWindow.oldSctlr2En ∧
    ∀ p ∈ s.pendingAlias, ∃ q ∈ u.pendingAlias, q.before = p.before ∧ p.byEl2 <:+ q.byEl2 ∧ p.byEl1 <:+ q.byEl1

theorem windowsExtend_of_same_alias {s u : State} (ho : s.effectWindow.oldStored <:+ u.effectWindow.oldStored)
    (he : s.effectWindow.oldSctlr2En <:+ u.effectWindow.oldSctlr2En) (ha : u.pendingAlias = s.pendingAlias) :
    WindowsExtend s u :=
  ⟨ho, he, fun p hp => ⟨p, ha ▸ hp, rfl, List.suffix_refl _, List.suffix_refl _⟩⟩

theorem oldStored_suffix_windowAfter (n : RegName) (v : Word) (s : State) :
    s.effectWindow.oldStored <:+ (windowAfter n v s).oldStored := by
  unfold windowAfter
  split
  · exact List.suffix_cons _ _
  · exact (List.suffix_cons _ _).trans (List.suffix_cons _ _)

theorem PendingAlias.suffix_record (p : PendingAlias) (n : RegName) (v : Word) :
    p.byEl2 <:+ (p.record n v).byEl2 ∧ p.byEl1 <:+ (p.record n v).byEl1 := by
  cases n with
  | sctlr2El2 => exact ⟨List.suffix_cons _ _, List.suffix_refl _⟩
  | sctlr2El1 => exact ⟨List.suffix_refl _, List.suffix_cons _ _⟩

/-- A write of SCTLR2_EL2 adds to the windows (R42, R43). -/
theorem windowsExtend_writeSctlr2El2 (n : RegName) (v : Word) (s : State) :
    WindowsExtend s (writeSctlr2El2 n v s) := by
  by_cases ha : aliasApplies s = true
  · refine ⟨oldStored_suffix_windowAfter n v s, List.suffix_refl _, fun p hp => ?_⟩
    rw [writeSctlr2El2_pendingAlias, aliasAfter_of_applies ha, Option.mem_def.1 hp]
    exact ⟨_, rfl, p.before_record n _, p.suffix_record n _⟩
  · exact windowsExtend_of_same_alias (oldStored_suffix_windowAfter n v s) (List.suffix_refl _)
      (aliasAfter_of_not_applies ha n v)

theorem windowsExtend_refl (s : State) : WindowsExtend s s :=
  windowsExtend_of_same_alias (List.suffix_refl _) (List.suffix_refl _) rfl

theorem exec_windowsExtend {i : Instr} {s u : State} (h : exec i s = .next u) : WindowsExtend s u := by
  obtain ⟨n, d, t, rfl⟩ := exists_form i
  cases d with
  | read =>
    rw [exec_read] at h
    obtain ⟨-, rfl⟩ | ⟨-, rfl⟩ | ⟨-, -, rfl⟩ := performRead_next h <;> exact windowsExtend_refl s
  | write =>
    rw [exec_write] at h
    obtain ⟨-, rfl⟩ | ⟨-, rfl⟩ | ⟨-, -, rfl⟩ := performWrite_next h
    · exact windowsExtend_writeSctlr2El2 n (s.readX t) s
    · exact windowsExtend_refl s
    · exact windowsExtend_refl s

/-- An event drops a TLB copy only if it is a Reset, a TlbInvalidate or a fill of the same translation (R66; log 14). -/
theorem runEvent_keeps_tlbEntry {e : Event} {s u : State} (h : runEvent e s = .next u) (hr : ∀ r, e ≠ .reset r)
    (hi : e ≠ .tlbInvalidate) {c : TlbEntry} (hf : e ≠ .tlbFill c.translation) (hc : c ∈ s.tlbEmec) :
    c ∈ u.tlbEmec := by
  have effect (he : e.isEffect = true) : c ∈ u.tlbEmec := by
    rw [runEvent_next_of_isEffect he h]
    exact hc
  cases e with
  | reset r => exact absurd rfl (hr r)
  | tlbInvalidate => exact absurd rfl hi
  | tlbFill k =>
    cases h
    refine List.mem_cons_of_mem _ (List.mem_filter.2 ⟨hc, ?_⟩)
    rw [bne_iff_ne]
    rintro rfl
    exact hf rfl
  | slotStore v =>
    simp only [runEvent, onSlotStore] at h
    split at h <;> cases h
    exact hc
  | realmAccess | externalAbort | syncExternalAbort | takeSError | access128 => exact effect rfl
  | _ => cases h; exact hc

/-- Settles O38: every step but a Sync or a Reset extends the windows, and only the events of R66 drop a TLB copy. -/
theorem sctlr2EnChangeOpensWindow : Obligations.Sctlr2EnChangeOpensWindow := by
  refine ⟨fun s c hc => ⟨_, _, rfl, rfl, ?_, rfl, rfl, rfl, rfl, rfl⟩, fun s u h hreset => ?_⟩
  · simp [hc]
  · obtain ⟨e, ts, ht, h⟩ | ⟨-, i, -, h⟩ := step_next h
    · have hturn := eventTurn_of_turns ht
      have hr (r : ResetInputs) : e ≠ .reset r := fun he => hreset r (he ▸ hturn)
      refine ⟨fun hsync => ?_, fun hinv c hc hfill => ?_⟩
      · obtain ⟨⟨r, he⟩ | he, -⟩ | ⟨ha, ho, he⟩ := runEvent_next_windows h
        · exact absurd he (hr r)
        · exact absurd (he ▸ hturn) hsync
        · exact windowsExtend_of_same_alias (by rw [ho]) he ha
      · exact runEvent_keeps_tlbEntry h hr (fun he => hinv (he ▸ hturn)) (fun he => hfill (he ▸ hturn)) hc
    · have htlb : u.tlbEmec = s.tlbEmec := congrArg (fun p => p.2.2.1) (exec_next_untouched h)
      exact ⟨fun _ => (exec_windowsExtend h :), fun _ c hc _ => htlb ▸ hc⟩

/-! ### TLB fills -/

/-- MecEnabled has the field implemented among its guards (R59). -/
theorem mecEnabled_and_implemented (s : State) (b : Bool) :
    mecEnabled s (implemented s.cfg .emec && b) = mecEnabled s b := by
  unfold mecEnabled effectsApply
  cases implemented s.cfg .emec <;> simp

/-- Settles O48: the new copy stands first, and the filter drops copies of its own translation only. -/
theorem tlbFillRemembers : Obligations.TlbFillRemembers := by
  intro s k
  refine ⟨_, rfl, ?_, fun j hj => ?_, rfl, rfl⟩
  · rw [List.find?_cons_of_pos (by simp), mecEnabled_and_implemented]
    rfl
  · rw [List.find?_cons_of_neg (by simpa using hj.symm), List.find?_filter]
    congr 1
    funext c
    by_cases hc : c.translation = j <;> simp [hc, hj]

/-! ### RES0 bits -/

/-- The stored values `v` and `old` agree with those of `s` on the implemented fields (R28, R29). -/
abbrev StoredAgree (v : Word) (old : List Word) (s : State) : Prop :=
  v &&& funcMask s.cfg = s.sctlr2El2 &&& funcMask s.cfg ∧
    old.map (· &&& funcMask s.cfg) = s.effectWindow.oldStored.map (· &&& funcMask s.cfg)

/-- The effective value of an implemented field depends on the implemented fields' stored bits alone (R28, R30). -/
theorem eff_congr {cfg : Config} {v w : Word} {f : ControlField} (hf : implemented cfg f = true)
    (h : v &&& funcMask cfg = w &&& funcMask cfg) (i : Inputs) : eff cfg i v f = eff cfg i w f := by
  rw [eff, eff, fieldBit_congr hf h]

/-- The effective value of an implemented field is that of the bits FuncMask keeps. -/
theorem eff_funcMask {cfg : Config} {f : ControlField} (hf : implemented cfg f = true) (i : Inputs) (v : Word) :
    eff cfg i (v &&& funcMask cfg) f = eff cfg i v f :=
  eff_congr hf (by rw [BitVec.and_assoc, BitVec.and_self]) i

/-- An External abort that no field governs gives any of the three reports (log 20). -/
theorem onExternalAbort_of_ungoverned {s : State} {r : AbortedRead} (hr : r.regime ≠ .other)
    (hg : ¬(effectsApply s (abortField r) = true ∧ controlsApply s s.ctx.el = true ∧ asyncApplies s.cfg r = true))
    (route : AbortRouting) :
    onExternalAbort r route s =
      deliver (pick s.draws .sync [.async, .fatal]) r route { s with draws := s.draws + 1 } := by
  rw [onExternalAbort, if_neg hr, if_pos]
  simp only [Bool.or_eq_true, Bool.not_eq_true']
  simpa [and_assoc, or_assoc, imp_iff_not_or] using hg

section
variable {v : Word} {old : List Word} {s : State} (h : StoredAgree v old s)
include h

theorem closed_withStored : (withStored v old s).effectWindow.closed = s.effectWindow.closed := by
  have hl := congrArg List.length h.2
  simp only [List.length_map] at hl
  have he : old.isEmpty = s.effectWindow.oldStored.isEmpty := by
    rw [Bool.eq_iff_iff, List.isEmpty_iff_length_eq_zero, List.isEmpty_iff_length_eq_zero, hl]
  simp [withStored, EffectWindow.closed, he]

theorem effNow_withStored {f : ControlField} (hf : implemented s.cfg f = true) :
    effNow (withStored v old s) f = effNow s f :=
  eff_congr hf h.1 s.inputs

theorem effCandidates_withStored {f : ControlField} (hf : implemented s.cfg f = true) :
    effCandidates (withStored v old s) f = effCandidates s f := by
  have agree (i : Inputs) : (v :: old).map (eff s.cfg i · f) =
      (s.sctlr2El2 :: s.effectWindow.oldStored).map (eff s.cfg i · f) := by
    have hmask : (v :: old).map (· &&& funcMask s.cfg) =
        (s.sctlr2El2 :: s.effectWindow.oldStored).map (· &&& funcMask s.cfg) := by
      rw [List.map_cons, List.map_cons, h.1, h.2]
    simpa only [List.map_map, Function.comp_def, eff_funcMask hf] using
      congrArg (List.map (eff s.cfg i · f)) hmask
  exact congrArg (List.flatMap · _) (funext fun en => agree _)

theorem effSeen_withStored {f : ControlField} (hf : implemented s.cfg f = true) :
    effSeen (withStored v old s) f = effSeen s f := by
  rw [effSeen, closed_withStored h, effNow_withStored h hf, effCandidates_withStored h hf]
  rfl

theorem afterEff_withStored : afterEff (withStored v old s) = withStored v old (afterEff s) := by
  rw [afterEff, closed_withStored h]
  rfl

/-- A use under the guard of its rule is a use of an implemented field. -/
theorem effSeen_withStored_of_effectsApply {f : ControlField} (hg : effectsApply s f = true) :
    effSeen (withStored v old s) f = effSeen s f :=
  effSeen_withStored h ((effectsApply_iff s f).1 hg).2.1

theorem easeVector_withStored_of_agree (target : EL) (src : VectorSource) :
    easeVector target src (withStored v old s) = easeVector target src s := by
  cases hg : effectsApply s .ease with
  | false => exact easeVector_withStored v old (.inr hg) src
  | true =>
    rw [easeVector, effSeen_withStored_of_effectsApply h hg]
    rfl

theorem deliver_withStored_of_agree (rep : Report) (r : AbortedRead) (route : AbortRouting) :
    deliver rep r route (withStored v old s) = mapNext (withStored v old) (deliver rep r route s) := by
  cases rep with
  | sync =>
    rw [deliver, easeVector_withStored_of_agree h]
    rfl
  | async => rfl
  | fatal => rfl

theorem onExternalAbort_withStored_of_agree (r : AbortedRead) (route : AbortRouting) :
    onExternalAbort r route (withStored v old s) = mapNext (withStored v old) (onExternalAbort r route s) := by
  by_cases hr : r.regime = .other
  · simp only [onExternalAbort, hr, if_true, mapNext]
  by_cases hg : effectsApply s (abortField r) = true ∧ controlsApply s s.ctx.el = true ∧ asyncApplies s.cfg r = true
  · obtain ⟨hg, hc, ha⟩ := hg
    rw [onExternalAbort_of_governed hr hg hc ha, onExternalAbort_of_governed (s := withStored v old s) hr hg hc ha,
      effSeen_withStored_of_effectsApply h hg, afterEff_withStored h]
    split
    · exact deliver_withStored_of_agree (s := { s with draws := (afterEff s).draws + 1 }) h _ r route
    · exact deliver_withStored_of_agree (s := afterEff s) h _ r route
  · rw [onExternalAbort_of_ungoverned hr hg, onExternalAbort_of_ungoverned (s := withStored v old s) hr hg]
    exact deliver_withStored_of_agree (s := { s with draws := s.draws + 1 }) h _ r route

theorem onSyncExternalAbort_withStored_of_agree (target : EL) (src : VectorSource) :
    onSyncExternalAbort target src (withStored v old s) =
      mapNext (withStored v old) (onSyncExternalAbort target src s) := by
  rw [onSyncExternalAbort, easeVector_withStored_of_agree h, onSyncExternalAbort]
  cases easeVector target src s <;> rfl

theorem realmAttribute_withStored_of_agree (tr : Option Nat) :
    realmAttribute tr (withStored v old s) = realmAttribute tr s := by
  cases hg : effectsApply s .emec with
  | false => exact realmAttribute_withStored v old (.inl hg) tr
  | true =>
    rw [realmAttribute, effSeen_withStored_of_effectsApply h hg, afterEff_withStored h]
    rfl

theorem onRealmAccess_withStored_of_agree (rg : Regime) (tr : Option Nat) :
    onRealmAccess rg tr (withStored v old s) = mapNext (withStored v old) (onRealmAccess rg tr s) := by
  rw [onRealmAccess, realmAttribute_withStored_of_agree h]
  rfl

theorem onTakeSError_withStored_of_agree (k : Nat) (sp : StackPointer) :
    onTakeSError k sp (withStored v old s) = mapNext (withStored v old) (onTakeSError k sp s) := by
  cases hg : effectsApply s .nmea with
  | false => exact onTakeSError_withStored v old (.inl hg) k sp
  | true =>
    rw [onTakeSError, effSeen_withStored_of_effectsApply h hg, afterEff_withStored h, onTakeSError,
      withStored_pendingSErrors]
    cases s.pendingSErrors[k]? with
    | none => rfl
    | some target =>
      simp only [apply_ite (mapNext (withStored v old))]
      rfl

theorem onAccess128_withStored_of_agree (r : SysReg) (w : InstrWord) (hp : Bool) :
    onAccess128 r w hp (withStored v old s) = mapNext (withStored v old) (onAccess128 r w hp s) := by
  cases hg : effectsApply s .enIdcp128 with
  | false => exact onAccess128_withStored v old (.inl hg) r w hp
  | true =>
    rw [onAccess128, effSeen_withStored_of_effectsApply h hg, onAccess128]
    simp only [apply_ite (mapNext (withStored v old))]
    rfl

theorem onTlbFill_withStored_of_agree (k : Nat) :
    onTlbFill k (withStored v old s) = mapNext (withStored v old) (onTlbFill k s) := by
  have seen : (implemented s.cfg .emec && effSeen (withStored v old s) .emec) =
      (implemented s.cfg .emec && effSeen s .emec) := by
    cases hi : implemented s.cfg .emec with
    | false => rfl
    | true => rw [effSeen_withStored h hi]
  simp only [onTlbFill, afterEff_withStored h, show (withStored v old s).cfg = s.cfg from rfl, seen]
  rfl

end

/-- Settles O37: every use under a guard is a use of an implemented field, whose bit FuncMask keeps. -/
theorem res0BitsHaveNoEffect : Obligations.Res0BitsHaveNoEffect := by
  refine ⟨fun cfg i v w f hf h => eff_congr hf h i, fun s v old e hv hold he => ?_⟩
  have h : StoredAgree v old s := ⟨hv, hold⟩
  obtain he | ⟨k, rfl⟩ | ⟨t, rfl⟩ := he
  · cases e with
    | realmAccess rg tr => exact onRealmAccess_withStored_of_agree h rg tr
    | externalAbort r route => exact onExternalAbort_withStored_of_agree h r route
    | syncExternalAbort target src => exact onSyncExternalAbort_withStored_of_agree h target src
    | takeSError k sp => exact onTakeSError_withStored_of_agree h k sp
    | access128 r w hp => exact onAccess128_withStored_of_agree h r w hp
    | _ => cases he
  · exact onTlbFill_withStored_of_agree h k
  · rfl

/-! ### All fields off -/

/-- With no window open a use makes no draw (R43). -/
theorem afterEff_of_closed {s : State} (h : s.effectWindow = ⟨[], []⟩) : afterEff s = s := by
  rw [afterEff, (effectWindow_closed_iff _).2 h, if_pos rfl]

/-- An access to a 128-bit register that EnIDCP128 governs (R112, R113). -/
theorem onAccess128_of_governed {s : State} {r : SysReg} (hr : r ∈ s.cfg.impdef128Sysregs)
    (hg : effectsApply s .enIdcp128 = true) (hc : controlsApply s s.ctx.el = true) (w : InstrWord) :
    onAccess128 r w false s =
      if effSeen s .enIdcp128 then .refused (.access128NotTrapped r)
      else if s.ctx.el = .el0 then raiseSysTrap .el2 0x14#6 w
      else .refused (.access128Disabled r) := by
  simp [onAccess128, hr, hg, hc]

/-- With EASE seen as 0 an abort taken to EL2 goes to the synchronous vector (R115). -/
theorem easeVector_of_off {s : State} (h : effSeen s .ease = false) (target : EL) (src : VectorSource) :
    easeVector target src s =
      if target = .el2 ∧ effectsApply s .ease = true then some (s.ctx.vbarEl2 + syncOffset src) else none := by
  simp [easeVector, vectorAddress, h]

/-- A pending SError with target EL2 that NMEA governs at EL2 (R122, R123). -/
theorem onTakeSError_of_governed {s : State} {k : Nat} (hk : s.pendingSErrors[k]? = some .el2)
    (he : s.ctx.el = .el2) (hg : effectsApply s .nmea = true) (sp : StackPointer) :
    onTakeSError k sp s =
      if effSeen s .nmea || !s.ctx.pstateA then raise (.serror .el2 (serrorVector s sp)) else .next (afterEff s) := by
  simp [onTakeSError, hk, he, hg]

/-- A Realm access with EMEC seen as 0 and no window open, through no TLB entry (R59). -/
theorem realmAttribute_of_off {s : State} (hw : s.effectWindow = ⟨[], []⟩) (h : effSeen s .emec = false)
    (hc : controlsApply s s.ctx.el = true) : realmAttribute none s = (false, s.draws) := by
  cases hg : effectsApply s .emec with
  | false => exact realmAttribute_of_not_effectsApply hg none
  | true => rw [realmAttribute_of_no_hit hg hc rfl, h, afterEff_of_closed hw]

/-- Settles O50: every effective value is seen as 0, without a draw. -/
theorem allFieldsOffTogether : Obligations.AllFieldsOffTogether := by
  intro s hw hgate hp hen
  have off := effSeen_of_gate_closed hw hgate
  refine ⟨fun r w hi he ha hr => ?_, fun r w hi he hr => ?_, fun src hi => ?_, fun r route hr hi ha hc => ?_,
    fun k sp hi he hk hA => ?_, fun rg hc => ?_⟩
  · have hc : controlsApply s s.ctx.el = true := by simp [controlsApply, he, ha]
    rw [runEvent, onAccess128_of_governed hr (effectsApply_of hp hi hen) hc, off, if_neg Bool.false_ne_true, if_pos he]
    rfl
  · have hc : controlsApply s s.ctx.el = true := by simp [controlsApply, he]
    rw [runEvent, onAccess128_of_governed hr (effectsApply_of hp hi hen) hc, off, if_neg Bool.false_ne_true,
      if_neg (by simp [he])]
  · rw [runEvent, onSyncExternalAbort, easeVector_el2 (effectsApply_of hp hi hen), off, if_neg Bool.false_ne_true]
    rfl
  · rw [runEvent, onExternalAbort_of_governed hr (effectsApply_of hp hi hen) hc ha, off, if_neg Bool.false_ne_true,
      afterEff_of_closed hw]
    split
    · rfl
    · rw [deliver, easeVector_of_off (off .ease)]
      simp only [effectsApply, implemented, hp, hen, Bool.true_and, Bool.and_true]
      rfl
  · rw [runEvent, onTakeSError_of_governed hk he (effectsApply_of hp hi hen), off, hA, if_neg (by simp),
      afterEff_of_closed hw]
  · rw [runEvent_realmAccess, realmAttribute_of_off hw (off .emec) hc]

end Sys2Proof.Machine
end

section
/-! PROOFS. Family 20_memory: the PE's turn, the forms that are redirected to the NVMem slot, what accesses memory, and
the reports of External aborts. -/

namespace Sys2Proof.Machine

/-! ### Fetching and the PE's turn -/

/-- Every well-formed instruction's word decodes to it (R71 to R74). -/
theorem decodeWord_encode {i : Instr} (h : i.WellFormed) : decodeWord (encode i) = some i := by
  cases i with
  | mrsSctlr2El2 t => exact Laws.WordRoundTrip.mrsSctlr2El2 t h
  | msrSctlr2El2 t => exact Laws.WordRoundTrip.msrSctlr2El2 t h
  | mrsSctlr2El1 t => exact Laws.WordRoundTrip.mrsSctlr2El1 t h
  | msrSctlr2El1 t => exact Laws.WordRoundTrip.msrSctlr2El1 t h

theorem fetchInstr_encode {s : State} {i : Instr} (hi : i.WellFormed) (hf : FetchesWord s (encode i)) :
    fetchInstr s = .ok i := by
  rw [fetchInstr_word hf, decodeWord_encode hi]

theorem fetchInstr_of_misaligned {s : State} (h : s.pc.toNat % 4 ≠ 0) :
    fetchInstr s = .error (.misalignedFetch s.pc) := by
  simp [fetchInstr, fetchBytes, h]

theorem afterTurn_of_nil {s : State} (h : s.turns = []) : afterTurn s = s := by
  rw [afterTurn, h, List.tail_nil, ← h]

/-- Settles O5: the fetched word decodes to its instruction, and an empty list of turns loses nothing. -/
theorem stepRunsDecodedInstruction : Obligations.StepRunsDecodedInstruction := by
  have run {s : State} {i : Instr} (hi : i.WellFormed) (hp : PeTurn s) (hf : FetchesWord s (encode i)) :
      step s = exec i (afterTurn s) := by
    rw [step_fetch hp, fetchInstr_encode hi hf]
  refine ⟨fun s i hi hp hf => run hi hp hf, fun s i hi ht hf => ?_, fun s e ts ht => step_event ht⟩
  rw [run hi (.inl ht) hf, afterTurn_of_nil ht]

/-- Settles O7: the fetch itself is refused. -/
theorem misalignedFetchRefused : Obligations.MisalignedFetchRefused := by
  intro s hp h
  rw [step_fetch hp, fetchInstr_of_misaligned h]

/-! ### The forms along the route to the slot -/

section
variable {n : RegName} {s : State}

theorem routeOf_nvmem {d : Direction} (hp : Present s) (hu : El1Unstopped d s) (hn : NvRedirects s) :
    routeOf .sctlr2El1 d s = .nvmem :=
  routeEl1Name_nvmem hp hu hn

theorem exec_read_of_nvmem (h : routeOf n .read s = .nvmem) (hs : slotRefusal s = none) (t : Nat) :
    exec (form n .read t) s = .next ((afterSlotRead s).writeX t (slotValue s)).advance := by
  rw [exec_read, h, performRead, hs]

theorem exec_write_of_nvmem (h : routeOf n .write s = .nvmem) (hs : slotRefusal s = none) (t : Nat) :
    exec (form n .write t) s = .next (writeSlot (s.readX t) s).advance := by
  rw [exec_write, h, performWrite, hs]

/-- A slot access without a meaning stops both forms alike (R51, R54). -/
theorem exec_of_slotRefusal {d : Direction} {e : Refusal} (h : routeOf n d s = .nvmem) (hs : slotRefusal s = some e)
    (t : Nat) : exec (form n d t) s = .refused e := by
  cases d with
  | read => rw [exec_read, h, performRead, hs]
  | write => rw [exec_write, h, performWrite, hs]

/-- Through the gate of EL3 at EL2 an access goes on only where it is open (R85, R91 row 6, R92 row 12). -/
theorem eq_of_el2_gate {r r' : Route} (hr : r' ∈ [Route.noEl2, .sctlr2El2, .sctlr2El1, .nvmem])
    (h : (if sddEarly s then .undefined else if el3Off s then el3Gate s else r) = r') : r = r' := by
  by_cases hg : GateOpen s
  · rwa [sddEarly_of_gateOpen hg, (gateOpen_iff s).1 hg, if_neg Bool.false_ne_true, if_neg Bool.false_ne_true] at h
  · rw [el2_closed_gate hg] at h
    exact absurd h (el3Gate_stops s r' hr)

/-- Only the name SCTLR2_EL1 at EL1 leads to the slot (R50; row 8 of R92). -/
theorem el1_of_routeOf_nvmem {d : Direction} (h : routeOf n d s = .nvmem) : n = .sctlr2El1 ∧ s.ctx.el = .el1 := by
  cases n with
  | sctlr2El2 =>
    obtain ⟨-, h⟩ := present_eq h (by simp) (by simp)
    cases he : s.ctx.el with
    | el0 => simp [he] at h
    | el1 =>
      simp only [he] at h
      split at h <;> cases h
    | el2 =>
      simp only [he] at h
      cases eq_of_el2_gate (by simp) h
    | el3 => simp [he] at h
  | sctlr2El1 =>
    obtain ⟨-, h⟩ := present_eq h (by simp) (by simp)
    refine ⟨rfl, ?_⟩
    cases he : s.ctx.el with
    | el0 => simp [he] at h
    | el1 => rfl
    | el2 =>
      simp only [he] at h
      have h := eq_of_el2_gate (by simp) h
      split at h <;> cases h
    | el3 => simp [he] at h

end

/-- Settles O24: the two tests of a slot access come in this order. -/
theorem slotRefusals : Obligations.SlotRefusals := by
  intro s d t hp hu hn
  have route := routeOf_nvmem hp hu hn
  exact ⟨fun ha => exec_of_slotRefusal route (if_pos ha) t,
    fun ha had => exec_of_slotRefusal route (by simp [slotRefusal, ha, had]) t⟩

/-! ### The value of the slot -/

/-- The bytes in memory order of a doubleword put together from eight bytes (R53). -/
theorem wordToBytes_append (b : Fin 8 → Byte) :
    wordToBytes .little (b 7 ++ b 6 ++ b 5 ++ b 4 ++ b 3 ++ b 2 ++ b 1 ++ b 0) = List.ofFn b := by
  refine List.ext_getElem (by simp) fun k hk _ => ?_
  rw [getElem_wordToBytes_little, List.getElem_ofFn]
  have hk : k < 8 := by simpa using hk
  refine BitVec.eq_of_getLsbD_eq fun i hi => ?_
  rw [BitVec.getLsbD_extractLsb', decide_eq_true hi, Bool.true_and]
  interval_cases k <;> simp (disch := omega) only [BitVec.getLsbD_append, if_pos, if_neg] <;> congr 1 <;> omega

theorem bytesToWord_little_ofFn (b : Fin 8 → Byte) :
    bytesToWord .little (List.ofFn b) = b 7 ++ b 6 ++ b 5 ++ b 4 ++ b 3 ++ b 2 ++ b 1 ++ b 0 := by
  rw [← wordToBytes_append, bytesToWord_wordToBytes]

/-- The big-endian doubleword is the little-endian one of the bytes taken from the other end (R53). -/
theorem bytesToWord_big_ofFn (b : Fin 8 → Byte) :
    bytesToWord .big (List.ofFn b) = b 0 ++ b 1 ++ b 2 ++ b 3 ++ b 4 ++ b 5 ++ b 6 ++ b 7 := by
  have hrev : (List.ofFn b).reverse = List.ofFn (b ∘ Fin.rev) := by simp [List.ofFn_succ]
  exact (congrArg littleWord hrev).trans (bytesToWord_little_ofFn (b ∘ Fin.rev))

/-- Bytes that stand at the slot's eight addresses are its cells. -/
theorem slotCells_of_read {s : State} {b : Fin 8 → Byte}
    (h : ∀ k : Fin 8, s.mem.read (slotAddr s.cfg + k) = some (b k)) : slotCells s = (List.ofFn b).map some := by
  refine List.ext_getElem (by simp [slotCells]) fun k hk _ => ?_
  have hk : k < 8 := by simpa [slotCells] using hk
  simpa only [slotCells, List.getElem_map, List.getElem_range, List.getElem_ofFn] using h ⟨k, hk⟩

/-- A read of written cells uses up no draw (log 15). -/
theorem afterSlotRead_of_cells {s : State} {bs : List Byte} (h : slotCells s = bs.map some) : afterSlotRead s = s := by
  have hw : slotWritten s = true := by simp [slotWritten, h]
  rw [afterSlotRead, if_pos hw]

/-- Settles O20: the slot's cells are the given bytes, so the read makes no draw. -/
theorem slotReadCompletes : Obligations.SlotReadCompletes := by
  intro s t b _ hp hu hn ha hb
  have hcells : slotCells s = (List.ofFn b).map some := slotCells_of_read hb
  refine (exec_read_of_nvmem (routeOf_nvmem hp hu hn) ((slotRefusal_none_iff s).2 ha) t).trans ?_
  rw [afterSlotRead_of_cells hcells, slotValue_of_cells hcells (by simp)]
  cases s.cfg.nvmemByteOrder with
  | little => rw [bytesToWord_little_ofFn]; rfl
  | big => rw [bytesToWord_big_ofFn]; rfl

/-- Settles O23: whatever the cells hold, the read completes with the slot's value. -/
theorem unwrittenSlotStillReads : Obligations.UnwrittenSlotStillReads :=
  fun s t _ hp hu hn ha =>
    ⟨slotValue s, _, exec_read_of_nvmem (routeOf_nvmem hp hu hn) ((slotRefusal_none_iff s).2 ha) t⟩

/-- Settles O21: the form stores what the environment's event for the slot would store. -/
theorem slotWriteCompletes : Obligations.SlotWriteCompletes := by
  intro s t _ hp hu hn ha
  obtain ⟨-, -, store, -⟩ := eventsKeepRegisters
  obtain ⟨u, hrun, hin, hout, -⟩ := (store s (s.readX t)).2 ha.1
  cases (onSlotStore_of_aligned ha.1 (s.readX t)).symm.trans hrun
  exact ⟨_, exec_write_of_nvmem (routeOf_nvmem hp hu hn) ((slotRefusal_none_iff s).2 ha) t, hin, hout, rfl⟩

/-- Settles O22: the store leaves its bytes in the slot's cells, and the bytes give the value back in either order. -/
theorem slotReadsBackWhatWasStored : Obligations.SlotReadsBackWhatWasStored := by
  intro s t r _ hr hp huw hur hn ha
  have hadm := (slotRefusal_none_iff s).2 ha
  have hv : slotValue (writeSlot (s.readX t) s).advance = s.readX t :=
    (slotValue_of_cells (slotCells_writeSlot (s.readX t) s) (by simp)).trans (bytesToWord_wordToBytes _ _)
  refine ⟨_, _, exec_write_of_nvmem (routeOf_nvmem hp huw hn) hadm t,
    exec_read_of_nvmem (s := (writeSlot (s.readX t) s).advance) (routeOf_nvmem hp hur hn) hadm r, ?_, rfl, rfl, rfl⟩
  rw [readX_advance, readX_writeX_same _ hr, hv]

/-! ### What accesses memory -/

section
variable {s : State}

/-- A read form sees no byte of memory but the slot's, and those in the slot's row only (R50). -/
theorem performRead_of_mem {m : Memory} {r : Route}
    (h : r = .nvmem → slotCells { s with mem := m } = slotCells s) (n : RegName) (w : InstrWord) (t : Nat) :
    performRead n w t r { s with mem := m } = mapNext (fun u => { u with mem := m }) (performRead n w t r s) := by
  cases r with
  | nvmem =>
    have hv : slotValue { s with mem := m } = slotValue s := by rw [slotValue, h rfl]; rfl
    have hw : afterSlotRead { s with mem := m } = { afterSlotRead s with mem := m } := by
      rw [afterSlotRead, slotWritten, h rfl]; rfl
    have hr : slotRefusal { s with mem := m } = slotRefusal s := rfl
    rw [performRead, performRead, hv, hw, hr]
    cases slotRefusal s <;> rfl
  | undefined => rfl
  | trap target => rfl
  | noEl2 => rfl
  | sctlr2El2 => rfl
  | sctlr2El1 => rfl

/-- A write form that is not redirected to the slot sees no byte of memory (R50). -/
theorem performWrite_of_mem {r : Route} (h : r ≠ .nvmem) (m : Memory) (n : RegName) (w : InstrWord) (t : Nat) :
    performWrite n w t r { s with mem := m } = mapNext (fun u => { u with mem := m }) (performWrite n w t r s) := by
  cases r with
  | nvmem => exact absurd rfl h
  | undefined => rfl
  | trap target => rfl
  | noEl2 => rfl
  | sctlr2El2 => rfl
  | sctlr2El1 => rfl

/-- A write form that is redirected to the slot stores the same whatever memory holds (R50). -/
theorem performWrite_nvmem_of_mem (m : Memory) (n : RegName) (w : InstrWord) (t : Nat) :
    mapNext (fun u => { u with mem := [] }) (performWrite n w t .nvmem { s with mem := m }) =
      mapNext (fun u => { u with mem := [] }) (performWrite n w t .nvmem s) := by
  have hr : slotRefusal { s with mem := m } = slotRefusal s := rfl
  rw [performWrite, performWrite, hr]
  cases slotRefusal s <;> rfl

/-- No test of a form looks at memory (R85 to R92). -/
theorem routeOf_of_mem (m : Memory) (n : RegName) (d : Direction) :
    routeOf n d { s with mem := m } = routeOf n d s := by
  cases n <;> rfl

/-- A form that completes leaves memory as it is, or it is a write redirected to the slot (R50). -/
theorem exec_next_mem {n : RegName} {d : Direction} {t : Nat} {u : State} (h : exec (form n d t) s = .next u) :
    u.mem = s.mem ∨ d = .write ∧ routeOf n d s = .nvmem ∧ u.mem = (writeSlot (s.readX t) s).mem := by
  cases d with
  | read =>
    rw [exec_read] at h
    obtain ⟨-, rfl⟩ | ⟨-, rfl⟩ | ⟨-, -, rfl⟩ := performRead_next h <;> exact .inl rfl
  | write =>
    rw [exec_write] at h
    obtain ⟨-, rfl⟩ | ⟨-, rfl⟩ | ⟨hr, -, rfl⟩ := performWrite_next h
    · exact .inl rfl
    · exact .inl rfl
    · exact .inr ⟨rfl, hr, rfl⟩

/-- An event that changes memory is a store to the slot by the environment (R52; log 18, log 24). -/
theorem runEvent_next_mem {e : Event} {u : State} (h : runEvent e s = .next u) :
    u.mem = s.mem ∨ ∃ v, e = .slotStore v ∧ u.mem = (writeSlot v s).mem := by
  obtain ⟨r, -, h⟩ | ⟨c, -, h⟩ | ⟨t, v, -, h⟩ | ⟨v, -, h⟩ | ⟨v, -, h⟩ | ⟨v, he, h⟩ | h := runEvent_next h
  · cases h; exact .inl rfl
  · cases h; exact .inl rfl
  · exact .inl (congrArg State.mem h :)
  · exact .inl (congrArg State.mem h :)
  · exact .inl (congrArg State.mem h :)
  · exact .inr ⟨v, he, congrArg State.mem h⟩
  · exact .inl (congrArg State.mem h :)

/-- A byte that a store to the slot changes is one of the slot's eight. -/
theorem mem_slot_of_writeSlot_ne {v : Word} {a : Nat} (h : (writeSlot v s).mem.read a ≠ s.mem.read a) :
    slotAddr s.cfg ≤ a ∧ a < slotAddr s.cfg + 8 := by
  by_contra hout
  exact h (read_writeSlot_outside v s (by omega))

end

/-- Settles O27: only the row of the slot looks at memory, and only a store to the slot changes it. -/
theorem onlyTheSlotIsAccessed : Obligations.OnlyTheSlotIsAccessed := by
  refine ⟨fun s n d t m hn => ?_, fun s n t m hm => ?_, fun s n t m => ?_, fun s u n d t h a ha => ?_,
    fun s u e h => ⟨fun he => ?_, fun a ha => ?_⟩⟩
  · have hroute : routeOf n d s ≠ .nvmem := fun hr => by
      obtain ⟨rfl, hel⟩ := el1_of_routeOf_nvmem hr
      exact hn.elim (by simp) fun hne => hne hel
    refine ⟨?_, fun u h => (exec_next_mem h).resolve_right fun ⟨_, hr, _⟩ => hroute hr⟩
    cases d with
    | read =>
      rw [exec_read, exec_read, routeOf_of_mem]
      exact performRead_of_mem (fun hr => absurd hr hroute) n _ t
    | write =>
      rw [exec_write, exec_write, routeOf_of_mem]
      exact performWrite_of_mem hroute m n _ t
  · have hcells : slotCells { s with mem := m } = slotCells s :=
      List.map_congr_left fun k hk => hm k (List.mem_range.1 hk)
    rw [exec_read, exec_read, routeOf_of_mem]
    exact performRead_of_mem (fun _ => hcells) n _ t
  · rw [exec_write, exec_write, routeOf_of_mem]
    by_cases hr : routeOf n .write s = .nvmem
    · rw [hr]
      exact performWrite_nvmem_of_mem m n _ t
    · rw [performWrite_of_mem hr]
      cases performWrite n _ t (routeOf n .write s) s <;> rfl
  · obtain hu | ⟨rfl, hr, hu⟩ := exec_next_mem h <;> rw [hu] at ha
    · exact absurd rfl ha
    · obtain ⟨rfl, hel⟩ := el1_of_routeOf_nvmem hr
      exact ⟨rfl, rfl, hel, mem_slot_of_writeSlot_ne ha⟩
  · exact (runEvent_next_mem h).resolve_right fun ⟨v, hv, _⟩ => he v hv
  · obtain hu | ⟨v, -, hu⟩ := runEvent_next_mem h <;> rw [hu] at ha
    · exact absurd rfl ha
    · exact mem_slot_of_writeSlot_ne ha

/-! ### The reports of an External abort -/

/-- Settles O43: in the two regimes an abort is one report, delivered in one of three ways. -/
theorem abortReportsAreThree : Obligations.AbortReportsAreThree := by
  intro s r route
  refine ⟨fun hr => if_pos hr, fun hr => ?_⟩
  obtain ⟨rep, n, hd⟩ := onExternalAbort_delivers hr route s
  rw [runEvent, hd]
  obtain h | h | h := deliver_cases rep r route { s with draws := n }
  · exact .inl ⟨_, h⟩
  · exact .inr (.inl h)
  · exact .inr (.inr ⟨n, h⟩)

end Sys2Proof.Machine
end

section
/-! PROOFS. Family 30_encoding: decoding and encoding are inverse to each other, and a word outside the table of R74 is
refused. -/

namespace Sys2Proof.Machine

/-! ### The rows of the table -/

/-- A row ignores the `Rt` field and nothing else (R74, R75). -/
theorem mask_of_mem_opRows {r : OpRow} (h : r ∈ opRows) : r.mask = 0xFFFFFFE0#32 := by
  revert r
  decide

theorem reg_build_of_mem_opRows {r : OpRow} (h : r ∈ opRows) (t : Nat) : (r.build t).reg = t := by
  simp only [opRows, List.mem_cons, List.not_mem_nil, or_false] at h
  obtain rfl | rfl | rfl | rfl := h <;> rfl

/-- The tuples and the word layout of R71 to R73 give the match column of R74, with the register number in the low five
bits. -/
theorem encode_build_of_mem_opRows {r : OpRow} (h : r ∈ opRows) (rt : BitVec 5) :
    encode (r.build rt.toNat) = r.pattern ||| rt.setWidth 32 := by
  revert r rt
  decide

theorem rtOf_lt (w : InstrWord) : rtOf w < 32 := (w.extractLsb' 0 5).isLt

/-- A word is its bits under the mask together with its `Rt` field. -/
theorem and_mask_or_rt (w : InstrWord) : w &&& 0xFFFFFFE0#32 ||| (w.extractLsb' 0 5).setWidth 32 = w := by
  refine BitVec.eq_of_getLsbD_eq fun i hi => ?_
  simp only [BitVec.getLsbD_or, BitVec.getLsbD_and, BitVec.getLsbD_setWidth, BitVec.getLsbD_extractLsb']
  interval_cases i <;> simp

theorem encode_build_of_selects {r : OpRow} {w : InstrWord} (hr : r ∈ opRows) (h : r.selects w = true) :
    encode (r.build (rtOf w)) = w := by
  have hw : w &&& 0xFFFFFFE0#32 = r.pattern := mask_of_mem_opRows hr ▸ eq_of_beq h
  rw [rtOf, encode_build_of_mem_opRows hr, ← hw, and_mask_or_rt]

/-! ### The decoder by the rows -/

theorem exists_row_of_decodeWord {w : InstrWord} {i : Instr} (h : decodeWord w = some i) :
    ∃ r ∈ opRows, r.selects w = true ∧ r.build (rtOf w) = i := by
  obtain ⟨r, hr, hi⟩ := Option.map_eq_some_iff.1 h
  exact ⟨r, List.mem_of_find?_eq_some hr, List.find?_some (p := (OpRow.selects · w)) hr, hi⟩

theorem decodeWord_eq_none_iff {w : InstrWord} :
    decodeWord w = none ↔ ∀ r ∈ opRows, w &&& r.mask ≠ r.pattern := by
  simp [decodeWord, OpRow.selects]

/-! ### The statements -/

/-- Settles O2: the bytes give the word back (R53), and the word decodes to its instruction. -/
theorem decodeOfEncode : Obligations.DecodeOfEncode := by
  intro i rest hi
  rw [encodeBytes, decode_wordBytes, decodeWord_encode hi]

/-- Settles O3: the row that selects a word builds an instruction whose encoding has the word's every bit. -/
theorem decodedWordsAreEncodings : Obligations.DecodedWordsAreEncodings := by
  refine fun w i => ⟨fun h => ?_, fun ⟨hi, hw⟩ => hw ▸ decodeWord_encode hi⟩
  obtain ⟨r, hr, hs, rfl⟩ := exists_row_of_decodeWord h
  refine ⟨?_, encode_build_of_selects hr hs⟩
  rw [Instr.WellFormed, reg_build_of_mem_opRows hr]
  exact rtOf_lt w

/-- Settles O4: no row selects the word, so neither the decoder nor a fetch finds an instruction. -/
theorem unmatchedWordsRefused : Obligations.UnmatchedWordsRefused := by
  intro w h
  have hw : decodeWord w = none := decodeWord_eq_none_iff.2 (by simpa [opRows] using h)
  refine ⟨fun rest => ?_, fun s hp hf => ?_⟩
  · rw [decode_wordBytes, hw]
  · rw [step_fetch hp, fetchInstr_word hf, hw]

/-- Settles O1: the five words are fixed, so the decoder is run on each. -/
theorem specWordsDecode : Obligations.SpecWordsDecode := ⟨rfl, rfl, rfl, rfl, rfl⟩

end Sys2Proof.Machine
end

section
/-! PROOFS. Family 40_sysreg_access: the presence gate, the rows of R91 and R92 that stop an access form, the least
Exception level of each name, and what EL3_TRAP_PRIORITY_WHEN_SDD decides. -/

namespace Sys2Proof.Machine

/-! ### How a form answers along its route -/

section
variable {n : RegName} {d : Direction} {s : State}

theorem exec_of_route_noEl2 (h : routeOf n d s = .noEl2) (t : Nat) :
    exec (form n d t) s = .refused (.el2NotImplemented (encode (form n d t))) := by
  cases d with
  | read => rw [exec_read, h, performRead]
  | write => rw [exec_write, h, performWrite]

theorem exec_of_route_trap {target : EL} (h : routeOf n d s = .trap target) (t : Nat) :
    exec (form n d t) s = .fault (.sysTrap target 0x18#6 (encode (form n d t))) := by
  cases d with
  | read => rw [exec_read, h]; rfl
  | write => rw [exec_write, h]; rfl

/-- The closed gate of EL3 makes a form UNDEFINED where EL3 cannot take the trap, else traps it to EL3 (R85). -/
theorem exec_of_route_el3Gate (h : routeOf n d s = el3Gate s) (t : Nat) :
    (s.ctx.halted = true → s.ctx.edscrSdd = true →
      exec (form n d t) s = .fault (.undefined (encode (form n d t)))) ∧
    (¬(s.ctx.halted = true ∧ s.ctx.edscrSdd = true) →
      exec (form n d t) s = .fault (.sysTrap .el3 0x18#6 (encode (form n d t)))) := by
  refine ⟨fun hh hs => exec_of_route_undefined (h.trans ?_) t, fun hn => exec_of_route_trap (h.trans ?_) t⟩
  · simp [el3Gate, hh, hs]
  · exact if_neg (by rwa [Bool.and_eq_true])

theorem exec_read_of_sctlr2El1 (h : routeOf n .read s = .sctlr2El1) (t : Nat) :
    exec (form n .read t) s = .next (s.writeX t s.sctlr2El1).advance := by
  rw [exec_read, h]
  rfl

theorem exec_write_of_sctlr2El1 (h : routeOf n .write s = .sctlr2El1) (t : Nat) :
    exec (form n .write t) s = .next (writeSctlr2El1 (s.readX t) s).advance := by
  rw [exec_write, h]
  rfl

/-- A form completes along each route that reaches a register or an admitted slot, racing or not. -/
theorem exists_exec_next_of_route
    (h : routeOf n d s = .sctlr2El2 ∨ routeOf n d s = .sctlr2El1 ∨ routeOf n d s = .nvmem ∧ slotRefusal s = none)
    (t : Nat) : ∃ u, exec (form n d t) s = .next u := by
  cases d with
  | read =>
    obtain h | h | ⟨h, hs⟩ := h
    · exact ⟨_, exec_read_of_sctlr2El2 h t⟩
    · exact ⟨_, exec_read_of_sctlr2El1 h t⟩
    · exact ⟨_, exec_read_of_nvmem h hs t⟩
  | write =>
    obtain h | h | ⟨h, hs⟩ := h
    · exact ⟨_, exec_write_of_sctlr2El2 h t⟩
    · exact ⟨_, exec_write_of_sctlr2El1 h t⟩
    · exact ⟨_, exec_write_of_nvmem h hs t⟩

/-! ### The presence gate -/

/-- With the register but without EL2 every form is refused before its own tests (R86, D23). -/
theorem routeOf_of_noEl2 (h1 : s.cfg.featSctlr2 = true) (h2 : s.cfg.haveEl2 = false) : routeOf n d s = .noEl2 := by
  cases n <;> simp [routeOf, routeEl2Name, routeEl1Name, present, h1, h2]

end

/-- Settles O10: the two tests of the presence gate route every form. -/
theorem presenceGateOfAllForms : Obligations.PresenceGateOfAllForms := by
  intro i s
  obtain ⟨n, d, t, rfl⟩ := exists_form i
  exact ⟨fun h => exec_of_route_undefined (routeOf_of_absent h n d) t,
    fun h1 h2 => exec_of_route_noEl2 (routeOf_of_noEl2 h1 h2) t⟩

theorem present_of_exec_next {i : Instr} {s u : State} (h : exec i s = .next u) : Present s := by
  obtain ⟨habsent, hnoEl2⟩ := presenceGateOfAllForms i s
  have hf : s.cfg.featSctlr2 = true := by
    by_contra hf
    cases h.symm.trans (habsent (by simpa using hf))
  refine ⟨hf, ?_⟩
  by_contra he
  cases h.symm.trans (hnoEl2 hf (by simpa using he))

/-! ### The rows that stop a form -/

section
variable {n : RegName} {d : Direction} {s : State}

/-- Row 1 of R91 and of R92. -/
theorem routeOf_el0 (hp : Present s) (he : s.ctx.el = .el0) : routeOf n d s = .undefined := by
  cases n <;> simp [routeOf, routeEl2Name, routeEl1Name, present_of_present hp.1 hp.2, he]

/-- Rows 2 and 3 of R91. -/
theorem routeEl2Name_el1 (hp : Present s) (he : s.ctx.el = .el1) :
    routeEl2Name s = if s.el2Enabled && s.ctx.hcrNv then .trap .el2 else .undefined := by
  rw [routeEl2Name, he]
  exact present_of_present hp.1 hp.2 _

/-- `SddEarly` decides nothing where the gate of EL3 is the next test: it holds only where the closed gate makes the
form UNDEFINED (R93). -/
theorem el3Gate_absorbs_sddEarly (r : Route) :
    (if sddEarly s then .undefined else if el3Off s then el3Gate s else r) = if el3Off s then el3Gate s else r := by
  cases h : sddEarly s
  · rfl
  · obtain ⟨hoff, hh, hs⟩ := sddEarly_imp h
    simp [hoff, el3Gate, hh, hs]

/-- Where a form at EL2 leads, without `SddEarly` (R91 rows 4 to 6, R92 rows 10 to 13, R93). -/
theorem routeOf_el2 (he : s.ctx.el = .el2) :
    routeOf n d s = present s (if el3Off s then el3Gate s
      else if n = .sctlr2El2 ∨ s.ctx.hcrE2h = true then .sctlr2El2 else .sctlr2El1) := by
  cases n <;> simp [routeOf, routeEl2Name, routeEl1Name, he, el3Gate_absorbs_sddEarly]

/-- Rows 4 and 5 of R91, rows 10 and 11 of R92. -/
theorem routeOf_el2_of_gate_closed (hp : Present s) (he : s.ctx.el = .el2) (hg : ¬GateOpen s) :
    routeOf n d s = el3Gate s := by
  rw [routeOf_el2 he, present_of_present hp.1 hp.2]
  exact if_pos (by simpa [gateOpen_iff] using hg)

/-- A control of EL2 traps a form by the name SCTLR2_EL1 at EL1: rows 3 to 5 of R92. -/
def trappedByEl2 (d : Direction) (s : State) : Bool :=
  s.el2Enabled && (vmTrap d s || (s.cfg.featFgt && (!s.cfg.haveEl3 || s.ctx.scrFgtEn) && fineGrainedBit d s) ||
    !s.ctx.hcrxEnabled || !s.ctx.hcrxSctlr2En)

/-- The tests at EL1 in order: `SddEarly`, the controls of EL2, the gate of EL3, the redirection (R92 rows 2 to 9). -/
theorem routeEl1Name_el1_tests (hp : Present s) (he : s.ctx.el = .el1) :
    routeEl1Name d s = if sddEarly s then .undefined else if trappedByEl2 d s then .trap .el2
      else if el3Off s then el3Gate s
      else if s.el2Enabled && s.ctx.hcrNv2 && s.ctx.hcrNv1 && s.ctx.hcrNv then .nvmem else .sctlr2El1 := by
  rw [routeEl1Name, he, present_of_present hp.1 hp.2]
  cases hen : s.el2Enabled
  · simp [trappedByEl2, hen]
  · simp [trappedByEl2, hen, ite_or, or_assoc]

end

/-- Settles O11: UNDEFINED at EL0, HCR_EL2.NV decides at EL1, the gate of EL3 at EL2. -/
theorem el2NameStopTable : Obligations.El2NameStopTable := by
  intro s d t hp
  have gate := fun he hg => exec_of_route_el3Gate (routeOf_el2_of_gate_closed (n := .sctlr2El2) (d := d) hp he hg) t
  have el1 : s.ctx.el = .el1 → routeOf .sctlr2El2 d s = _ := routeEl2Name_el1 hp
  refine ⟨fun he => exec_of_route_undefined (routeOf_el0 hp he) t,
    fun he hen hnv => exec_of_route_trap ((el1 he).trans (if_pos ?_)) t,
    fun he hn => exec_of_route_undefined ((el1 he).trans (if_neg ?_)) t,
    fun he hg => (gate he hg).1, fun he hg => (gate he hg).2⟩
  · rw [hen, hnv]; rfl
  · rwa [Bool.and_eq_true]

/-- Settles O16: UNDEFINED at EL0, the tests of EL1 in their order, the gate of EL3 at EL2. -/
theorem el1NameStopTable : Obligations.El1NameStopTable := by
  intro s d t hp i w early fgt trapped
  have el1 : s.ctx.el = .el1 → routeOf .sctlr2El1 d s = _ := routeEl1Name_el1_tests hp
  have gate1 (he : s.ctx.el = .el1) (hearly : early = false) (htrap : trapped = false) (hg : ¬GateOpen s) :=
    exec_of_route_el3Gate (n := .sctlr2El1) (d := d) ((el1 he).trans <|
      (if_neg (Bool.eq_false_iff.1 hearly)).trans <| (if_neg (Bool.eq_false_iff.1 htrap)).trans <|
      if_pos (by simpa [gateOpen_iff] using hg)) t
  have gate2 := fun he hg => exec_of_route_el3Gate (routeOf_el2_of_gate_closed (n := .sctlr2El1) (d := d) hp he hg) t
  exact ⟨fun he => exec_of_route_undefined (routeOf_el0 hp he) t,
    fun he hearly => exec_of_route_undefined ((el1 he).trans (if_pos hearly)) t,
    fun he hearly htrap => exec_of_route_trap ((el1 he).trans <|
      (if_neg (Bool.eq_false_iff.1 hearly)).trans (if_pos htrap)) t,
    fun he hearly htrap hg => (gate1 he hearly htrap hg).1, fun he hearly htrap hg => (gate1 he hearly htrap hg).2,
    fun he hg => (gate2 he hg).1, fun he hg => (gate2 he hg).2⟩

/-! ### The least Exception level of each name -/

/-- Settles O29: below its least level every form stops, and there its route reaches a target. -/
theorem leastLevelOfEachName : Obligations.LeastLevelOfEachName := by
  refine ⟨fun s u n d t h => ?_, fun s d t hp he hg => ?_, fun s d t hp hu hadm => ?_⟩
  · have hp := present_of_exec_next h
    refine ⟨hp, fun he => ?_, ?_⟩
    · cases h.symm.trans (exec_of_route_undefined (routeOf_el0 hp he) t)
    · rintro rfl he
      obtain ⟨-, htrap, hundef, -⟩ := el2NameStopTable s d t hp
      by_cases hnv : s.el2Enabled = true ∧ s.ctx.hcrNv = true
      · cases h.symm.trans (htrap he hnv.1 hnv.2)
      · cases h.symm.trans (hundef he hnv)
  · exact exists_exec_next_of_route (n := .sctlr2El2) (.inl (routeEl2Name_of_reaches hp (.inr ⟨he, hg⟩))) t
  · by_cases hn : NvRedirects s
    · exact exists_exec_next_of_route
        (.inr (.inr ⟨routeOf_nvmem hp hu hn, (slotRefusal_none_iff s).2 (hadm hn)⟩)) t
    · exact exists_exec_next_of_route (n := .sctlr2El1)
        (.inr (.inl (routeEl1Name_of_reachesEl1 hp (.inr (.inr ⟨hu, hn⟩))))) t

/-! ### EL3_TRAP_PRIORITY_WHEN_SDD -/

/-- The same state of an implementation with this value of EL3_TRAP_PRIORITY_WHEN_SDD (R85). -/
def withTrapPriority (b : Bool) (s : State) : State :=
  { s with cfg := { s.cfg with el3TrapPriorityWhenSdd := b } }

section
variable (b : Bool) (s : State)

/-- At EL2 no test sees the boolean, since `SddEarly` decides nothing there (R93). -/
theorem routeOf_el2_withTrapPriority (he : s.ctx.el = .el2) (n : RegName) (d : Direction) :
    routeOf n d (withTrapPriority b s) = routeOf n d s := by
  rw [routeOf_el2 he, routeOf_el2 (s := withTrapPriority b s) he]
  rfl

/-- Along a given route a read form does not see the boolean. -/
theorem performRead_withTrapPriority (n : RegName) (w : InstrWord) (t : Nat) (r : Route) :
    performRead n w t r (withTrapPriority b s) = mapNext (withTrapPriority b) (performRead n w t r s) := by
  cases r with
  | nvmem =>
    have hr : slotRefusal (withTrapPriority b s) = slotRefusal s := rfl
    rw [performRead, performRead, hr]
    cases slotRefusal s <;> rfl
  | _ => rfl

/-- Along a given route a write form does not see the boolean. -/
theorem performWrite_withTrapPriority (n : RegName) (w : InstrWord) (t : Nat) (r : Route) :
    performWrite n w t r (withTrapPriority b s) = mapNext (withTrapPriority b) (performWrite n w t r s) := by
  cases r with
  | nvmem =>
    have hr : slotRefusal (withTrapPriority b s) = slotRefusal s := rfl
    rw [performWrite, performWrite, hr]
    cases slotRefusal s <;> rfl
  | _ => rfl

end

/-- Settles O30: neither the route at EL2 nor what is done along it depends on the boolean. -/
theorem trapPriorityUnseenAtEl2 : Obligations.TrapPriorityUnseenAtEl2 := by
  intro s i b he
  obtain ⟨n, d, t, rfl⟩ := exists_form i
  show exec _ (withTrapPriority b s) = mapNext (withTrapPriority b) _
  cases d with
  | read => rw [exec_read, exec_read, routeOf_el2_withTrapPriority b s he, performRead_withTrapPriority]
  | write => rw [exec_write, exec_write, routeOf_el2_withTrapPriority b s he, performWrite_withTrapPriority]

/-- Settles O31: the boolean decides whether row 2 of R92 comes before the trap of row 3. -/
theorem trapPriorityDecidesAtEl1 : Obligations.TrapPriorityDecidesAtEl1 := by
  intro s d t hp he hh h3 hs hg hen hvm
  obtain ⟨-, hearly, htrap, -⟩ := el1NameStopTable s d t hp
  cases hprio : s.cfg.el3TrapPriorityWhenSdd with
  | true => exact hearly he (by simp [hh, h3, hs, hprio, hg])
  | false => exact htrap he (by simp [hprio]) (by simp [hen, hvm])

end Sys2Proof.Machine
end

section
/-! PROOFS. Family 60_exceptions: where a form's trap goes and what its fault records, the trap of EnIDCP128, the vector
EASE selects, and pending SErrors: how they come to be, when NMEA lets one be taken, and at which vector. -/

namespace Sys2Proof.Machine

/-! ### Traps of the forms -/

/-- A fault of a form is the one its route names, with the form's own word (R105, R106). -/
theorem exec_fault {n : RegName} {d : Direction} {t : Nat} {s : State} {e : Fault}
    (h : exec (form n d t) s = .fault e) :
    (routeOf n d s = .undefined ∧ e = .undefined (encode (form n d t))) ∨
      ∃ target, routeOf n d s = .trap target ∧ e = .sysTrap target 0x18#6 (encode (form n d t)) := by
  cases d with
  | read =>
    rw [exec_read] at h
    exact performRead_fault h
  | write =>
    rw [exec_write] at h
    exact performWrite_fault h

section
variable {n : RegName} {d : Direction} {s : State} {target : EL}

theorem el3_of_el3Gate_trap (h : el3Gate s = .trap target) : target = .el3 := by
  unfold el3Gate at h
  split at h <;> cases h
  rfl

theorem present_of_routeOf_trap (h : routeOf n d s = .trap target) : Present s := by
  cases n with
  | sctlr2El2 => exact (present_eq h (by simp) (by simp)).1
  | sctlr2El1 => exact (present_eq h (by simp) (by simp)).1

/-- At EL1 the controls of EL2 trap to EL2, and the gate of EL3 to EL3 (R91 row 2, R92 rows 3 to 7). -/
theorem target_of_routeOf_trap_el1 (he : s.ctx.el = .el1) (h : routeOf n d s = .trap target) :
    target = .el2 ∨ target = .el3 := by
  have hp := present_of_routeOf_trap h
  cases n with
  | sctlr2El2 =>
    rw [routeOf, routeEl2Name_el1 hp he] at h
    split at h <;> cases h
    exact .inl rfl
  | sctlr2El1 =>
    rw [routeOf, routeEl1Name_el1_tests hp he] at h
    split at h
    · cases h
    split at h
    · cases h
      exact .inl rfl
    split at h
    · exact .inr (el3_of_el3Gate_trap h)
    · split at h <;> cases h

/-- At EL2 only the gate of EL3 traps a form (R91 row 5, R92 row 11). -/
theorem target_of_routeOf_trap_el2 (he : s.ctx.el = .el2) (h : routeOf n d s = .trap target) : target = .el3 := by
  have hp := present_of_routeOf_trap h
  rw [routeOf_el2 he, present_of_present hp.1 hp.2] at h
  split at h
  · exact el3_of_el3Gate_trap h
  · split at h <;> cases h

/-- At EL3 a form reaches its register (R91 row 7, R92 row 14). -/
theorem routeOf_el3 (hp : Present s) (he : s.ctx.el = .el3) :
    routeOf n d s = if n = .sctlr2El2 then .sctlr2El2 else .sctlr2El1 := by
  cases n with
  | sctlr2El2 => exact routeEl2Name_of_reaches hp (.inl he)
  | sctlr2El1 => exact routeEl1Name_el3 hp he

/-- A route that traps leads up: EL0 is UNDEFINED, and EL3 reaches a register (R91, R92, R106). -/
theorem routeOf_trap_goes_up (h : routeOf n d s = .trap target) :
    (target = .el2 ∧ s.ctx.el = .el1) ∨ (target = .el3 ∧ (s.ctx.el = .el1 ∨ s.ctx.el = .el2)) := by
  have hp := present_of_routeOf_trap h
  cases he : s.ctx.el with
  | el0 => cases (routeOf_el0 hp he).symm.trans h
  | el1 => exact (target_of_routeOf_trap_el1 he h).imp (fun ht => ⟨ht, rfl⟩) fun ht => ⟨ht, .inl rfl⟩
  | el2 => exact .inr ⟨target_of_routeOf_trap_el2 he h, .inr rfl⟩
  | el3 =>
    rw [routeOf_el3 hp he] at h
    split at h <;> cases h

end

/-- Settles O28: a fault of a form is named by its route, and a route that traps leads up. -/
theorem trapsGoUp : Obligations.TrapsGoUp := by
  intro s i target ec w h
  obtain ⟨n, d, t, rfl⟩ := exists_form i
  obtain ⟨-, he⟩ | ⟨target', hr, he⟩ := exec_fault h <;> cases he
  exact ⟨rfl, rfl, routeOf_trap_goes_up hr⟩

/-! ### What a fault of a form records -/

theorem entryRecord_undefined_of_halted {s : State} (h : s.ctx.halted = true) (sp : StackPointer) (w : InstrWord) :
    entryRecord s sp (.undefined w) = none := by
  simp [entryRecord, undefinedTarget, h]

/-- Where UNDEFINED is taken outside Debug state: from EL0 to EL1, or to EL2 under HCR_EL2.TGE, else to the level it
is raised at (R105, K14). -/
theorem undefinedTarget_of_running {s : State} (h : s.ctx.halted = false) :
    undefinedTarget s =
      some (if s.ctx.el = .el0 then if s.ctx.hcrTge then .el2 else .el1 else s.ctx.el) := by
  cases he : s.ctx.el with
  | el0 => cases ht : s.ctx.hcrTge <;> simp [undefinedTarget, h, he, ht]
  | _ => simp [undefinedTarget, h, he]

theorem entryRecord_undefined {s : State} {target : EL} (h : undefinedTarget s = some target) (sp : StackPointer)
    (w : InstrWord) :
    entryRecord s sp (.undefined w) =
      some ⟨target, 0x00#6, none, s.pc, entryVector s (undefinedSource s sp) target⟩ := by
  rw [entryRecord, h, Option.map_some]

theorem undefinedSource_of_el2 {s : State} (h : s.ctx.el = .el2) (sp : StackPointer) :
    undefinedSource s sp = sameElSource sp := if_pos h

theorem undefinedSource_of_ne_el2 {s : State} (h : s.ctx.el ≠ .el2) (sp : StackPointer) :
    undefinedSource s sp = .lowerAArch64 := if_neg h

/-- The syndrome of a form's word, as a number: Op0 is 3, Op2 is 3, Op1 tells the names apart, CRn is 1, CRm is 0 (R71,
R72, R107). -/
theorem sysTrapIss_encode_form (n : RegName) (d : Direction) : ∀ t < 32, sysTrapIss (encode (form n d t)) =
    BitVec.ofNat 25 (3 * 2 ^ 20 + 3 * 2 ^ 17 + (match n with | .sctlr2El2 => 4 | .sctlr2El1 => 0) * 2 ^ 14
      + 2 ^ 10 + t * 2 ^ 5 + (match d with | .read => 1 | .write => 0)) := by
  cases n <;> cases d <;> decide

/-- Settles O32: the level UNDEFINED is taken from fixes its target and vector, and the word of a form its syndrome. -/
theorem trapSyndrome : Obligations.TrapSyndrome := by
  refine ⟨fun s sp w => ⟨fun h => entryRecord_undefined_of_halted h sp w, fun h => ?_⟩,
    fun s sp n d t target ht => ?_⟩
  · rw [entryRecord_undefined (undefinedTarget_of_running h)]
    cases he : s.ctx.el with
    | el0 =>
      rw [undefinedSource_of_ne_el2 (by simp [he])]
      cases s.ctx.hcrTge <;> rfl
    | el1 => rfl
    | el2 =>
      rw [undefinedSource_of_el2 he]
      cases sp <;> rfl
    | el3 => rfl
  · rw [entryRecord, if_pos rfl, sysTrapIss_encode_form n d t ht]
    cases target <;> rfl

/-! ### EnIDCP128 -/

theorem onAccess128_of_not_mem {s : State} {r : SysReg} (h : r ∉ s.cfg.impdef128Sysregs) (w : InstrWord) (hp : Bool) :
    onAccess128 r w hp s = .refused (.not128Register r) := by
  simp [onAccess128, h]

theorem onAccess128_of_higherPriority {s : State} {r : SysReg} (h : r ∈ s.cfg.impdef128Sysregs) (w : InstrWord) :
    onAccess128 r w true s = .refused (.higherPriorityException r) := by
  simp [onAccess128, h]

/-- An access to a 128-bit register that faults is trapped at EL0 under AppliesAtEL0, with no higher-priority
exception (R112, D20). -/
theorem onAccess128_fault {s : State} {r : SysReg} {w : InstrWord} {hp : Bool} {e : Fault}
    (h : onAccess128 r w hp s = .fault e) :
    e = .sysTrap .el2 0x14#6 w ∧ s.ctx.el = .el0 ∧ effectsApply s .enIdcp128 = true ∧ appliesAtEl0 s = true ∧
      r ∈ s.cfg.impdef128Sysregs ∧ hp = false := by
  by_cases hr : r ∈ s.cfg.impdef128Sysregs
  case neg => cases (onAccess128_of_not_mem hr w hp).symm.trans h
  cases hp with
  | true => cases (onAccess128_of_higherPriority hr w).symm.trans h
  | false =>
    by_cases hs : FieldSilent s .enIdcp128
    · cases (onAccess128_of_silent hs r w false).symm.trans h
    · obtain ⟨hg, hc⟩ : effectsApply s .enIdcp128 = true ∧ controlsApply s s.ctx.el = true := by
        simpa [FieldSilent] using hs
      rw [onAccess128_of_governed hr hg hc] at h
      split at h
      · cases h
      split at h <;> cases h
      rename_i he
      exact ⟨rfl, he, hg, by simpa [controlsApply, he] using hc, hr, rfl⟩

theorem appliesAtEl0_iff (s : State) :
    appliesAtEl0 s = true ↔ s.cfg.featVhe = true ∧ s.ctx.hcrE2h = true ∧ s.ctx.hcrTge = true := by
  simp [appliesAtEl0, and_assoc]

theorem controlsApply_el0 {s : State} (h : appliesAtEl0 s = true) : controlsApply s .el0 = true := by
  simp [controlsApply, h]

theorem controlsApply_el2 (s : State) : controlsApply s .el2 = true := rfl

/-- Settles O39: the access is governed at EL0, and the value seen decides. -/
theorem enIdcp128Trap : Obligations.EnIdcp128Trap := by
  intro s r w hf hi hen he hvhe he2h htge hr
  have hc : controlsApply s s.ctx.el = true := he ▸ controlsApply_el0 ((appliesAtEl0_iff s).2 ⟨hvhe, he2h, htge⟩)
  have hrun : runEvent (.access128 r w false) s = _ := onAccess128_of_governed hr (effectsApply_of hf hi hen) hc w
  have trap (hseen : effSeen s .enIdcp128 = false) :
      runEvent (.access128 r w false) s = .fault (.sysTrap .el2 0x14#6 w) := by
    rw [hrun, if_neg (by simp [hseen]), if_pos he]
    rfl
  exact ⟨trap, fun hseen => hrun.trans (if_pos hseen), fun hw hg => trap (effSeen_of_gate_closed hw hg _),
    onAccess128_of_higherPriority hr w⟩

/-- Settles O40: at EL2 a governed access with value 0 is refused, and a fault is the trap of EL0. -/
theorem enIdcp128Elsewhere : Obligations.EnIdcp128Elsewhere := by
  refine fun s r w => ⟨fun hf hi hen he hr hseen => ?_, fun hp e h => ?_⟩
  · have hc : controlsApply s s.ctx.el = true := he ▸ controlsApply_el2 s
    rw [runEvent, onAccess128_of_governed hr (effectsApply_of hf hi hen) hc, if_neg (by simp [hseen]),
      if_neg (by simp [he])]
  · obtain ⟨rfl, he, hg, ha, hr, rfl⟩ := onAccess128_fault h
    obtain ⟨hvhe, he2h, htge⟩ := (appliesAtEl0_iff s).1 ha
    exact ⟨rfl, he, ((effectsApply_iff s .enIdcp128).1 hg).2.2, hvhe, he2h, htge, hr, rfl⟩

/-! ### The vector EASE selects -/

theorem onSyncExternalAbort_el2 {s : State} (h : effectsApply s .ease = true) (src : VectorSource) :
    onSyncExternalAbort .el2 src s =
      .fault (.syncExternalAbort (s.ctx.vbarEl2 + if effSeen s .ease then serrorOffset src else syncOffset src)) := by
  rw [onSyncExternalAbort, easeVector_el2 h]
  rfl

/-- A Data Abort is the synchronous report of its own read, at the vector of its routing, with a use of EASE of its own
(R115, R119; log 20). -/
theorem onExternalAbort_dataAbort {s : State} {r q : AbortedRead} {route : AbortRouting} {target : EL}
    {vector : Option Word} (h : onExternalAbort r route s = .fault (.syncDataAbort q target vector)) :
    q = r ∧ target = route.syncTarget ∧
      ∃ n, vector = easeVector route.syncTarget route.src { s with draws := n } := by
  by_cases hr : r.regime = .other
  · cases (if_pos hr).symm.trans h
  obtain ⟨rep, n, hd⟩ := onExternalAbort_delivers hr route s
  rw [hd] at h
  obtain hs | hs | hs := deliver_cases rep r route { s with draws := n } <;> cases hs.symm.trans h
  exact ⟨rfl, rfl, n, rfl⟩

/-- Settles O41: under the guard both kinds of abort go to the vector EASE selects, and only where the target is EL2. -/
theorem easeSelectsVector : Obligations.EaseSelectsVector := by
  intro s src hf hi hen
  have hg : effectsApply s .ease = true := effectsApply_of hf hi hen
  have hrun : runEvent (.syncExternalAbort .el2 src) s = _ := onSyncExternalAbort_el2 hg src
  refine ⟨fun hseen => by rw [hrun, if_pos hseen], fun hseen => by rw [hrun, if_neg (by simp [hseen])],
    fun r q route target vector h => ?_⟩
  obtain ⟨rfl, rfl, n, rfl⟩ := onExternalAbort_dataAbort h
  refine ⟨rfl, rfl, fun ht => easeVector_other ht _ _, fun ht => ⟨n, ?_⟩⟩
  rw [ht]
  exact easeVector_el2 (s := { s with draws := n }) hg route.src

/-! ### Pending SErrors -/

section
variable {s : State} {k : Nat}

theorem onTakeSError_of_missing (h : s.pendingSErrors[k]? = none) (sp : StackPointer) :
    onTakeSError k sp s = .next s := by
  rw [onTakeSError, h]

/-- A pending SError the rule of R122 does not speak of is refused by name (log 21). -/
theorem onTakeSError_of_outside {target : EL} (hk : s.pendingSErrors[k]? = some target)
    (h : ¬(s.ctx.el = .el2 ∧ target = .el2 ∧ effectsApply s .nmea = true)) (sp : StackPointer) :
    onTakeSError k sp s = .refused (.serrorOutsideControl target) := by
  have hout : s.ctx.el ≠ .el2 || target ≠ .el2 || !effectsApply s .nmea := by
    simpa [imp_iff_not_or, or_assoc] using h
  rw [onTakeSError, hk]
  exact if_pos hout

/-- Every way the event for a pending SError goes: none is there, it is outside the rule, or NMEA and PSTATE.A decide
(R122, R123; log 21). -/
theorem onTakeSError_cases (k : Nat) (sp : StackPointer) (s : State) :
    onTakeSError k sp s = .next s ∨ (∃ target, onTakeSError k sp s = .refused (.serrorOutsideControl target)) ∨
    s.pendingSErrors[k]? = some .el2 ∧ s.ctx.el = .el2 ∧ effectsApply s .nmea = true ∧
      (onTakeSError k sp s = .fault (.serror .el2 (serrorVector s sp)) ∨
        onTakeSError k sp s = .next (afterEff s)) := by
  cases hk : s.pendingSErrors[k]? with
  | none => exact .inl (onTakeSError_of_missing hk sp)
  | some target =>
    by_cases hin : s.ctx.el = .el2 ∧ target = .el2 ∧ effectsApply s .nmea = true
    · obtain ⟨he, rfl, hg⟩ := hin
      refine .inr (.inr ⟨rfl, he, hg, ?_⟩)
      rw [onTakeSError_of_governed hk he hg]
      split
      · exact .inl rfl
      · exact .inr rfl
    · exact .inr (.inl ⟨target, onTakeSError_of_outside hk hin sp⟩)

theorem onTakeSError_fault {sp : StackPointer} {e : Fault} (h : onTakeSError k sp s = .fault e) :
    e = .serror .el2 (serrorVector s sp) ∧ s.pendingSErrors[k]? = some .el2 ∧ s.ctx.el = .el2 ∧
      effectsApply s .nmea = true := by
  obtain hr | ⟨target, hr⟩ | ⟨hk, he, hg, hr | hr⟩ := onTakeSError_cases k sp s <;> cases hr.symm.trans h
  exact ⟨rfl, hk, he, hg⟩

theorem onTakeSError_next_pendingSErrors {sp : StackPointer} {u : State} (h : onTakeSError k sp s = .next u) :
    u.pendingSErrors = s.pendingSErrors := by
  obtain hr | ⟨target, hr⟩ | ⟨-, -, -, hr | hr⟩ := onTakeSError_cases k sp s <;> cases hr.symm.trans h <;> rfl

theorem onSyncExternalAbort_ne_next (target : EL) (src : VectorSource) (s u : State) :
    onSyncExternalAbort target src s ≠ .next u := by
  unfold onSyncExternalAbort
  cases easeVector target src s <;> exact nofun

theorem onAccess128_ne_next (r : SysReg) (w : InstrWord) (hp : Bool) (s u : State) :
    onAccess128 r w hp s ≠ .next u := by
  simp only [onAccess128, raiseSysTrap, raise]
  (repeat' split) <;> exact nofun

/-- The list of pending SErrors over every event: a reset supplies it, the two reports add to it, and nothing else
changes it (R119, R122; log 21, log 24). -/
theorem runEvent_next_pendingSErrors {e : Event} {u : State} (h : runEvent e s = .next u) :
    u.pendingSErrors = s.pendingSErrors ∨ (∃ r, e = .reset r) ∨
    (∃ t, e = .raiseSError t ∧ u.pendingSErrors = s.pendingSErrors ++ [t]) ∨
    ∃ r route, e = .externalAbort r route ∧ u.pendingSErrors = s.pendingSErrors ++ [route.serrorTarget] := by
  cases e with
  | reset r => exact .inr (.inl ⟨r, rfl⟩)
  | raiseSError t =>
    cases h
    exact .inr (.inr (.inl ⟨t, rfl, rfl⟩))
  | externalAbort r route =>
    by_cases hr : r.regime = .other
    · cases (if_pos hr).symm.trans h
    · obtain ⟨rep, n, hd⟩ := onExternalAbort_delivers hr route s
      obtain ⟨-, rfl⟩ := deliver_next (hd.symm.trans h)
      exact .inr (.inr (.inr ⟨r, route, rfl, rfl⟩))
  | takeSError k sp => exact .inl (onTakeSError_next_pendingSErrors h)
  | syncExternalAbort target src => exact absurd h (onSyncExternalAbort_ne_next target src s u)
  | access128 r w hp => exact absurd h (onAccess128_ne_next r w hp s u)
  | slotStore v =>
    simp only [runEvent, onSlotStore] at h
    split at h <;> cases h
    exact .inl rfl
  | _ => cases h; exact .inl rfl

end

theorem exec_next_pendingSErrors {i : Instr} {s u : State} (h : exec i s = .next u) :
    u.pendingSErrors = s.pendingSErrors :=
  congrArg (fun p => p.2.2.2.1) (exec_next_untouched h)

/-- Settles O60: of the events a reset and the two reports change the list, and no form does. -/
theorem pendingSErrorsGrowByReports : Obligations.PendingSErrorsGrowByReports := by
  refine ⟨fun s target => rfl, fun s k sp hk => onTakeSError_of_missing (List.getElem?_eq_none hk) sp,
    fun s u h => ?_⟩
  obtain ⟨e, ts, ht, h⟩ | ⟨-, i, -, h⟩ := step_next h
  · have hturn := eventTurn_of_turns ht
    obtain hu | ⟨r, rfl⟩ | ⟨t, rfl, hu⟩ | ⟨r, route, rfl, hu⟩ := runEvent_next_pendingSErrors h
    · exact .inl hu
    · exact .inr (.inl ⟨r, hturn⟩)
    · exact .inr (.inr (.inl ⟨t, hturn, hu⟩))
    · exact .inr (.inr (.inr ⟨r, route, hturn, hu⟩))
  · exact .inl (exec_next_pendingSErrors h :)

/-- An SError with a target higher than EL2 goes the same way whatever is stored (R122). -/
theorem onTakeSError_withStored_of_target_ne {s : State} {k : Nat} {target : EL}
    (hk : s.pendingSErrors[k]? = some target) (ht : target ≠ .el2) (v : Word) (old : List Word) (sp : StackPointer) :
    onTakeSError k sp (withStored v old s) = mapNext (withStored v old) (onTakeSError k sp s) := by
  rw [onTakeSError_of_outside hk (fun h => ht h.2.1),
    onTakeSError_of_outside (s := withStored v old s) hk (fun h => ht h.2.1)]
  rfl

/-- Settles O44: NMEA and PSTATE.A decide under the guard; outside the rule the stored value is not read. -/
theorem nmeaLiftsTheMask : Obligations.NmeaLiftsTheMask := by
  refine fun s k sp => ⟨fun hf hi hen he hk => ?_, fun hout w old => ?_⟩
  · have hrun : runEvent (.takeSError k sp) s = _ := onTakeSError_of_governed hk he (effectsApply_of hf hi hen) sp
    refine ⟨fun hseen => ⟨_, hrun.trans (if_pos ?_)⟩, fun _ hA => ⟨_, hrun.trans (if_pos ?_)⟩,
      fun hseen hA => ⟨_, hrun.trans (if_neg ?_)⟩⟩
    · rw [hseen, Bool.true_or]
    · rw [hA, Bool.not_false, Bool.or_true]
    · simp [hseen, hA]
  · obtain hi | hen | ⟨target, hk, hlt⟩ := hout
    · exact onTakeSError_withStored w old (.inl (by simp [effectsApply, implemented, hi])) k sp
    · exact onTakeSError_withStored w old (.inl (effectsApply_of_disabled hen .nmea)) k sp
    · exact onTakeSError_withStored_of_target_ne hk (by rintro rfl; exact hlt.false) w old sp

/-- The vectors of an SError as numbers (R116, K16). -/
theorem serrorVector_eq (s : State) (sp : StackPointer) :
    serrorVector s sp = s.ctx.vbarEl2 + match sp with | .sp0 => 0x180#64 | .spx => 0x380#64 := by
  cases sp <;> rfl

/-- Settles O45: a fault of the event is the SError of EL2, and another target is outside the rule. -/
theorem sErrorTakenOnlyAtEl2 : Obligations.SErrorTakenOnlyAtEl2 := by
  refine fun s k sp => ⟨fun e h => ?_, fun target hk ht => onTakeSError_of_outside hk (fun h => ht h.2.1) sp⟩
  obtain ⟨rfl, hk, he, hg⟩ := onTakeSError_fault h
  rw [serrorVector_eq]
  exact ⟨rfl, he, hk, ((effectsApply_iff s .nmea).1 hg).2.2⟩

end Sys2Proof.Machine
end
